-- ==== Sys2Proof/Word.lean ====
section
/-! DEFINITION. The word types of the engine (00_scope R5, R6): every one a plain bit vector, bit 0 least significant. -/

namespace Sys2Proof

/-- `note`, `mod` and the opcode field: `u8` (R5 `NOTE_W`, `MOD_W`; R72). -/
abbrev Byte := BitVec 8

/-- `index`, `value`, and the registers `WF1`, `WF2`, `SYNC` (R5 `IDX_W`, `VAL_W`, `SEL_W`). -/
abbrev Half := BitVec 16

/-- `frames`, the slot index, `platform_id`, `api_version`: `u32` (R5 `FRAMES_W`, R75). -/
abbrev Word := BitVec 32

/-- A value of the format `F`: an IEEE 754 binary32 bit pattern (R5, R75): bit 31 sign, 30:23 exponent, 22:0 fraction. -/
abbrev F := BitVec 32

/-- One output sample, `SAMPLE_W` = 32 bits (R5, R50). -/
abbrev Sample := BitVec 32

/-- The command word, `CMD_W` = 96 bits (R5, R72). -/
abbrev CmdWord := BitVec 96

end Sys2Proof
end

