-- ==== Sys2Proof/Config.lean ====
section
/-! DEFINITION. What an implementation fixes (00_scope R5): the constants the spec gives a value, and, as opaque constants
without a body, everything it leaves open. An opaque constant here is RAW: the contract the spec states for it (a range, a
sign) is put on it where it is used, in Machine/Contracts.lean, so that nothing more than the contract can be proved. -/

namespace Sys2Proof

/-- The four rounded operations of `F` (R8), named to tell apart the NaN each may make. -/
inductive FOp where
  | add | sub | mul | div
  deriving DecidableEq, Repr

/-- `SAMPLE_RATE` = 48000.0 (R5, R161, decision D11). -/
def Config.sampleRate : F := 0x473B8000

/-- `WF_DEFAULT_SAMPLE` = +0.0 (R5, R109, decision D16). -/
def Config.wfDefaultSample : F := 0x00000000

/-- Raw `NOTE_HZ` (R5, R141): open. Free value, log entry 4. -/
opaque Config.noteHzRaw : Byte → Byte → F

/-- Raw `WF_SAW` (R5, R101): open. Free value, log entry 4. -/
opaque Config.wfSawRaw : F → F

/-- Raw `WF_SQUARE` (R5, R101): open. Free value, log entry 4. -/
opaque Config.wfSquareRaw : F → F

/-- Raw `WF_SINE` (R5, R101): open. Free value, log entry 4. -/
opaque Config.wfSineRaw : F → F

/-- The raw value of the `n`-th draw of `RAND_PHASE()` where the run's supplied answers hold none (R7, R192). Free value, log
entry 5. -/
opaque Config.randPhaseRaw : Nat → F

/-- The raw value of the `n`-th draw of `NOISE()` where the run's supplied answers hold none (R7, R106). Free value, log
entry 5. -/
opaque Config.noiseRaw : Nat → F

/-- Sign (bit 22) and 22 payload bits of the quiet NaN an operation returns (R8: "unspecified"). Free value, log entry 6. -/
opaque Config.nanChoice : FOp → F → F → BitVec 23

/-- `TO_FIXED` of a NaN (R12: "unspecified"). Free value, log entry 7. -/
opaque Config.toFixedNaN : F → Sample

/-- `ipart` outside `0 <= x < 2^32` (R9: "unspecified"), a fresh value each time. Free value, log entry 8. -/
opaque Config.castFree : Nat → Word

end Sys2Proof
end

