-- ==== Sys2Proof/Machine/Float.lean ====
section
/-! DEFINITION. The arithmetic of the format `F` (00_scope R8, R9, R12): IEEE 754 binary32, round to nearest even, gradual
underflow, no traps, no flags.

Every finite binary32 value is a whole number of UNITS of 2^-149 (the least subnormal). So a finite operand is an integer,
an operation is computed exactly on integers (a quotient as a numerator and a denominator), and there is one rounding,
`roundBits`, at the end. -/

namespace Sys2Proof.Machine

/-- The sign bit. -/
def signBit (x : F) : Bool := x.msb

/-- The 31 bits below the sign, as a number; they order the magnitudes of all non-NaN values, infinity last. -/
def magBits (x : F) : Nat := x.toNat % 2 ^ 31

/-- A NaN of `F`. -/
def isNaN (x : F) : Bool := decide (0x7F800000 < magBits x)

/-- An infinity of `F`. -/
def isInf (x : F) : Bool := decide (magBits x = 0x7F800000)

/-- Neither NaN nor infinite. -/
def isFinite (x : F) : Bool := decide (magBits x < 0x7F800000)

/-- Either zero of `F`. -/
def isZero (x : F) : Bool := decide (magBits x = 0)

/-- The magnitude, in units of 2^-149, that 31 exponent-and-fraction bits below 0x7F800000 encode: a subnormal's fraction,
or the 24-bit significand at its exponent. -/
def unitsOfBits (b : Nat) : Nat :=
  if b < 2 ^ 23 then b else (2 ^ 23 + b % 2 ^ 23) * 2 ^ (b / 2 ^ 23 - 1)

/-- The magnitude of a finite value in units of 2^-149. -/
def magUnits (x : F) : Nat := unitsOfBits (magBits x)

/-- The exact value of a finite `F` in units of 2^-149. -/
def units (x : F) : Int := if signBit x then -(magUnits x : Int) else (magUnits x : Int)

/-- The pattern with the given sign and the given 31 lower bits. -/
def packF (neg : Bool) (b : Nat) : F := BitVec.ofNat 32 (if neg then 2 ^ 31 + b else b)

/-- The infinity of the given sign. -/
def infF (neg : Bool) : F := packF neg 0x7F800000

/-- The quiet NaN operation `op` returns on `a` and `b`: exponent all ones, top fraction bit set; its sign and its 22
payload bits are free (R8; log entry 6). -/
def quietNaN (op : FOp) (a b : F) : F :=
  packF (Config.nanChoice op a b).msb (0x7FC00000 + (Config.nanChoice op a b).toNat % 2 ^ 22)

/-- One rounding to nearest, ties to even (R8): the 31 bits of the `F` value nearest to `num / den` units of 2^-149.
`s` is the exponent of the last place kept (0 for subnormals and the lowest binade); a sum `2^23 * s + q` carries into the
exponent by itself, and what lies past the largest finite value is infinity. -/
def roundBits (num den : Nat) : Nat :=
  let s := Nat.log2 (num / den) - 23
  let d := den * 2 ^ s
  let q := num / d
  let r := num % d
  let up := if d < 2 * r ∨ (2 * r = d ∧ q % 2 = 1) then 1 else 0
  min (2 ^ 23 * s + q + up) 0x7F800000

/-- `fneg`: flips the sign bit (R8). -/
def fneg (a : F) : F := packF (!signBit a) (magBits a)

/-- The IEEE sum of `a` and `b`, with the NaN to return where there is no other result. An exact zero sum is +0.0, or
-0.0 when both operands are negative zeros. -/
def sumWith (nan a b : F) : F :=
  if isNaN a || isNaN b then nan
  else if isInf a then (if isInf b && (signBit a != signBit b) then nan else a)
  else if isInf b then b
  else
    let k := units a + units b
    if k = 0 then packF (signBit a && signBit b) 0
    else packF (decide (k < 0)) (roundBits k.natAbs 1)

/-- `fadd(a,b)` (R8). -/
def fadd (a b : F) : F := sumWith (quietNaN .add a b) a b

/-- `fsub(a,b)` (R8): the sum with the second operand's sign flipped. -/
def fsub (a b : F) : F := sumWith (quietNaN .sub a b) a (fneg b)

/-- `fmul(a,b)` (R8). -/
def fmul (a b : F) : F :=
  let neg := signBit a != signBit b
  if isNaN a || isNaN b then quietNaN .mul a b
  else if isInf a || isInf b then
    (if isZero a || isZero b then quietNaN .mul a b else infF neg)
  else packF neg (roundBits (magUnits a * magUnits b) (2 ^ 149))

/-- `fdiv(a,b)` (R8). A division by zero, which the spec says does not occur, gives IEEE's infinity (log entry 10). -/
def fdiv (a b : F) : F :=
  let neg := signBit a != signBit b
  if isNaN a || isNaN b then quietNaN .div a b
  else if isInf a then (if isInf b then quietNaN .div a b else infF neg)
  else if isInf b then packF neg 0
  else if isZero b then (if isZero a then quietNaN .div a b else infF neg)
  else packF neg (roundBits (2 ^ 149 * magUnits a) (magUnits b))

/-- `i2f(k)`: the integer `k` converted to `F`, to nearest even (R8). -/
def i2f (k : Int) : F := packF (decide (k < 0)) (roundBits (2 ^ 149 * k.natAbs) 1)

/-- Whether `ipart` is defined at `x`: `0 <= x < 2^32` (R9). A negative zero is not below zero. -/
def ipartDefined (x : F) : Bool :=
  (!signBit x || isZero x) && decide (magBits x < 0x7F800000) && decide (magUnits x < 2 ^ 181)

/-- `ipart(x)`: `x` truncated toward zero, as a `u32` (R9); outside its domain the unspecified result is the `k`-th fresh
free value (log entry 8). -/
def ipart (k : Nat) (x : F) : Word :=
  if ipartDefined x then BitVec.ofNat 32 (magUnits x / 2 ^ 149) else Config.castFree k

/-- How many fresh free values `ipart` uses up at `x`: none inside its domain. -/
def castUse (x : F) : Nat := if ipartDefined x then 0 else 1

/-- `sat_s32` of R12: clamped to `[-2^31, 2^31 - 1]`. -/
def satS32 (k : Int) : Int := max (-(2 ^ 31)) (min k (2 ^ 31 - 1))

/-- `TO_FIXED(x)` of this hardware (R12): signed Q1.31, truncating toward zero, saturating; of a NaN a free value (log
entry 7). `x * 2^31` is `units x / 2^118`. -/
def toFixed (x : F) : Sample :=
  if isNaN x then Config.toFixedNaN x
  else if isInf x then (if signBit x then 0x80000000 else 0x7FFFFFFF)
  else BitVec.ofInt 32 (satS32 ((units x).tdiv (2 ^ 118)))

end Sys2Proof.Machine
end

