-- ==== Sys2Proof/Machine/Flags.lean ====
section
/-! DEFINITION. The engine has no status flags, condition codes or predicates, and no command writes one (10_state R33), so
no flag computation is here. What stands in their place are the conditions the rules test: the IEEE ordered comparisons
(00_scope R8), the wrap test (43_cycle R167, R171) and the sync test (43_cycle R169). -/

namespace Sys2Proof.Machine

/-- The place of a non-NaN value in the order of `F`; the two zeros share one place. -/
def orderKey (x : F) : Int := if signBit x then -(magBits x : Int) else (magBits x : Int)

/-- `a <= b`: false when either side is NaN (R8). -/
def fle (a b : F) : Bool := !isNaN a && !isNaN b && decide (orderKey a ≤ orderKey b)

/-- `a < b`: false when either side is NaN (R8). -/
def flt (a b : F) : Bool := !isNaN a && !isNaN b && decide (orderKey a < orderKey b)

/-- The wrap test `x >= 1.0` of both oscillators (R167, R171). -/
def reachesOne (x : F) : Bool := fle 0x3F800000 x

/-- Hard sync is applied exactly when `SYNC` holds 1 (R169). -/
def syncEnabled (sync : Half) : Bool := decide (sync = 1)

/-- `0 <= x < 1`: the range of a phase draw and of a wrapped phase (R24, R192). -/
def inUnit (x : F) : Bool := fle 0x00000000 x && flt x 0x3F800000

/-- `-1 <= x <= 1`: the range of a sample (R100). -/
def inSample (x : F) : Bool := fle 0xBF800000 x && fle x 0x3F800000

end Sys2Proof.Machine
end

