-- ==== Sys2Proof/Machine/Contracts.lean ====
section
/-! DEFINITION. The open functions and draws with the contract the spec states for each, and no more. A function is its raw
free value where that meets the contract and a fixed value that meets it otherwise; a draw is the answer supplied for it, and a
free value in range where there is none. So every value the contract allows is possible, and nothing beyond the contract can be
proved (log entries 4 and 5). -/

namespace Sys2Proof.Machine

/-- `NOTE_HZ(note, mod)`: total, finite and greater than zero (42_pitch_detune R141). -/
def noteHz (note mod : Byte) : F :=
  let r := Config.noteHzRaw note mod
  if isFinite r && flt 0x00000000 r then r else 0x3F800000

/-- The contract of the library generators: on a phase in [0,1) a sample in [-1,1], elsewhere anything (40_waveform R101). -/
def boundOnUnit (p r : F) : F := if inUnit p && !inSample r then 0x00000000 else r

/-- `WF_SAW(p)` (R101). -/
def wfSaw (p : F) : F := boundOnUnit p (Config.wfSawRaw p)

/-- `WF_SQUARE(p)` (R101). -/
def wfSquare (p : F) : F := boundOnUnit p (Config.wfSquareRaw p)

/-- `WF_SINE(p)` (R101). -/
def wfSine (p : F) : F := boundOnUnit p (Config.wfSineRaw p)

/-- A draw with a range (00_scope R7; 10_state R32): the answer supplied for it where there is one in range, else the raw free
value where that is in range, else +0.0, which is in both ranges. -/
def drawIn (inRange : F → Bool) (answer : Option F) (raw : F) : F :=
  let free := if inRange raw then raw else 0x00000000
  match answer with
  | none => free
  | some r => if inRange r then r else free

/-- `RAND_PHASE()`: a value in [0,1) (44_lifecycle R192, U7), from the answer on port `rnd_phase`; `n` numbers the draw. -/
def randPhase (answer : Option F) (n : Nat) : F := drawIn inUnit answer (Config.randPhaseRaw n)

/-- `NOISE()`: a value in [-1,1] (40_waveform R106, U8), from the answer on port `rnd_noise`; `n` numbers the draw. -/
def noise (answer : Option F) (n : Nat) : F := drawIn inSample answer (Config.noiseRaw n)

end Sys2Proof.Machine
end

