-- ==== Sys2Proof/Machine/State.lean ====
section
/-! DEFINITION. The state of the engine as plain data (10_state), the reasons a step can stop, and the state after reset. -/

namespace Sys2Proof.Machine

/-- The Voice State: the seven registers of the engine (10_state R20 to R27). The five parameter registers and the two
phases are distinct (R29); a value outside its declared range is storable in each (R21, R23, R26, R27). -/
structure Voice where
  /-- `WF1`, waveform select of oscillator 1 (R21). -/
  wf1 : Half
  /-- `WF2`, waveform select of oscillator 2 (R22). -/
  wf2 : Half
  /-- `SYNC` (R23). -/
  sync : Half
  /-- `PH1`, phase accumulator of oscillator 1 (R24). -/
  ph1 : F
  /-- `PH2`, phase accumulator of oscillator 2 (R25). -/
  ph2 : F
  /-- `BAL` (R26). -/
  bal : F
  /-- `DET` (R27). -/
  det : F
  deriving DecidableEq, Repr

/-- The latches of one CYCLE (R30). -/
structure Latches where
  /-- `LFO01`, the rescaled LFO value. -/
  lfo01 : F
  /-- `F1`, frequency of oscillator 1. -/
  f1 : F
  /-- `F2`, frequency of oscillator 2. -/
  f2 : F
  /-- `W1`, phase increment per sample of oscillator 1. -/
  w1 : F
  /-- `W2`, phase increment per sample of oscillator 2. -/
  w2 : F
  /-- `N`, index of the sample being produced. -/
  n : Word
  deriving DecidableEq, Repr

/-- One transfer on the output port, `out_valid` = 1 (20_memory R57). -/
structure Transfer where
  /-- `out_slot`. -/
  slot : Word
  /-- `out_data`. -/
  data : Sample
  deriving DecidableEq, Repr

/-- The output sample space OUT (20_memory R50): slot index and sample, a slot one indivisible 32-bit word. In canonical form
the slots rise strictly and are `u32`s (`Memory.wf`); a slot not listed has no value (log entry 2). -/
abbrev Memory := List (Nat × Sample)

/-- What the host does at the engine's input ports (30_encoding R70, R71; 70_reset R230, R231), one entry a step. -/
inductive HostInput where
  /-- `cmd_valid` = 1 with this word on `cmd_word`, `rst` = 0: the engine accepts it and runs it to retirement (R71). -/
  | command (word : CmdWord)
  /-- `rst` = 1 while no command is in progress (R230). -/
  | reset
  /-- `rst` = 1 in the clock in which this word is offered: it is not accepted (R213, R231). -/
  | resetOffered (word : CmdWord)
  /-- This word is accepted and `rst` = 1 comes while the command is in progress, after `writes` of its OUT writes (R231). -/
  | resetDuring (word : CmdWord) (writes : Nat)
  deriving DecidableEq, Repr

/-- What the random unit will put on its two ports, an answer for each draw still to come, in order (10_state R32; 30_encoding
R70; 70_reset R239). Like `HostInput` this is a choice of the environment, made anew for each run: nothing relates the draws
of one run to those of another (log entry 5). -/
structure RandomUnit where
  /-- The answers to come on port `rnd_phase`. -/
  phase : List F
  /-- The answers to come on port `rnd_noise`. -/
  noise : List F
  deriving DecidableEq, Repr

/-- The MODEL's own counters, no state of the spec's: how many of the free values of each kind have been used. No statement
rests on their values (log entries 5 and 8). -/
structure Draws where
  /-- Draws of `RAND_PHASE()` made (R192). -/
  phase : Nat
  /-- Draws of `NOISE()` made (R106). -/
  noise : Nat
  /-- Uses of `ipart` outside its domain (R9). -/
  cast : Nat
  deriving DecidableEq, Repr

/-- The state of the machine. -/
structure State where
  /-- The Voice State. -/
  voice : Voice
  /-- The latches; none outside a CYCLE (R31). -/
  latches : Option Latches
  /-- OUT. -/
  out : Memory
  /-- The transfers the output port has made, in order (R57). -/
  outPort : List Transfer
  /-- What the host will do next, in order (R71, R241). -/
  inputs : List HostInput
  /-- What the random unit will answer next, in order (R32, R239). -/
  random : RandomUnit
  /-- The model's own counters of free values. -/
  draws : Draws
  deriving DecidableEq, Repr

/-- The reasons the machine stops with a fault: there are none. The engine raises nothing and every accepted command retires
(60_exceptions R210, R223). -/
inductive Fault where
  deriving DecidableEq, Repr

/-- The reasons an instruction has no meaning. -/
inductive Refusal where
  /-- Raised by `exec` for an instruction not modelled yet, by its mnemonic; safe. No arm of this model raises it. -/
  | notModelled (mnemonic : String)
  deriving DecidableEq, Repr

/-- The Voice State after hardware reset. The spec leaves all seven registers unspecified (R36, R230); the zeros are the
model's. DESIGN CHOICE, unsafe: log entry 1. -/
def Voice.afterReset : Voice :=
  { wf1 := 0, wf2 := 0, sync := 0, ph1 := 0x00000000, ph2 := 0x00000000, bal := 0x00000000, det := 0x00000000 }

/-- The machine right after hardware reset (R36, R230): no command in progress, no latch has a value, OUT not written. -/
def State.reset : State :=
  { voice := Voice.afterReset
    latches := none
    out := []
    outPort := []
    inputs := []
    random := { phase := [], noise := [] }
    draws := { phase := 0, noise := 0, cast := 0 } }

end Sys2Proof.Machine
end

