-- ==== Sys2Proof/Machine/Ops.lean ====
section
/-! DEFINITION. The named operations over the state: the Voice State registers, the latches, OUT and the output port, the
draws, hardware reset, and the end of a command. There is no exception entry and no return from one: the engine raises
nothing, saves nothing and has nothing to return from (60_exceptions R210, R214, R215). -/

namespace Sys2Proof.Machine

/-! ## OUT (20_memory R50) -/

/-- The value of slot `i`, or none if nothing has written it (log entry 2). -/
def Memory.read : Memory → Nat → Option Sample
  | [], _ => none
  | (j, v) :: m, i => if i = j then some v else Memory.read m i

/-- OUT with `v` in slot `i`, in canonical form. -/
def Memory.write : Memory → Nat → Sample → Memory
  | [], i, v => [(i, v)]
  | (j, u) :: m, i, v =>
    if i < j then (i, v) :: (j, u) :: m
    else if i = j then (i, v) :: m
    else (j, u) :: Memory.write m i v

/-- Every slot listed lies in `[lo, 2^32)` and they rise strictly. -/
def Memory.wfFrom : Nat → Memory → Bool
  | _, [] => true
  | lo, (j, _) :: m => decide (lo ≤ j) && decide (j < 2 ^ 32) && Memory.wfFrom (j + 1) m

/-- The canonical form of OUT: `u32` slot indices, strictly rising. -/
def Memory.wf (m : Memory) : Bool := Memory.wfFrom 0 m

/-- What the host reads in slot `i` of OUT (R59 (d)); the engine itself never reads OUT (R50). -/
def State.outRead (s : State) (i : Nat) : Option Sample := Memory.read s.out i

/-- `OutWrite(i, v)` (R7, R50): one transfer on the output port (R57), and the slot holds the whole new sample (R56). -/
def outWrite (i : Word) (v : Sample) (s : State) : State :=
  { s with out := Memory.write s.out i.toNat v, outPort := s.outPort ++ [{ slot := i, data := v }] }

/-! ## The Voice State (10_state R28) -/

/-- `vs[WF1] <- v`. -/
def setWf1 (v : Half) (s : State) : State := { s with voice := { s.voice with wf1 := v } }

/-- `vs[WF2] <- v`. -/
def setWf2 (v : Half) (s : State) : State := { s with voice := { s.voice with wf2 := v } }

/-- `vs[SYNC] <- v`. -/
def setSync (v : Half) (s : State) : State := { s with voice := { s.voice with sync := v } }

/-- `vs[BAL] <- v`. -/
def setBal (v : F) (s : State) : State := { s with voice := { s.voice with bal := v } }

/-- `vs[DET] <- v`. -/
def setDet (v : F) (s : State) : State := { s with voice := { s.voice with det := v } }

/-- `vs[PH1] <- p`, `vs[PH2] <- q`. -/
def setPhases (p q : F) (s : State) : State := { s with voice := { s.voice with ph1 := p, ph2 := q } }

/-! ## Latches and draws -/

/-- Give the latches their values (R30). -/
def setLatches (l : Latches) (s : State) : State := { s with latches := some l }

/-- The `k`-th of the draws of `RAND_PHASE()` still to be made, 0 the next. -/
def State.phaseDraw (s : State) (k : Nat) : F := randPhase s.random.phase[k]? (s.draws.phase + k)

/-- The `k`-th of the draws of `NOISE()` still to be made, 0 the next. -/
def State.noiseDraw (s : State) (k : Nat) : F := noise s.random.noise[k]? (s.draws.noise + k)

/-- `n` more draws of `RAND_PHASE()` have been made: their answers are used up. -/
def usePhaseDraws (n : Nat) (s : State) : State :=
  { s with
    random := { s.random with phase := s.random.phase.drop n }
    draws := { s.draws with phase := s.draws.phase + n } }

/-- `n` more draws of `NOISE()` have been made: their answers are used up. -/
def useNoiseDraws (n : Nat) (s : State) : State :=
  { s with
    random := { s.random with noise := s.random.noise.drop n }
    draws := { s.draws with noise := s.draws.noise + n } }

/-- `n` more free values of `ipart` have been used. -/
def useCasts (n : Nat) (s : State) : State :=
  { s with draws := { s.draws with cast := s.draws.cast + n } }

/-! ## Retirement and reset -/

/-- The end of a command: its effects are complete and no latch holds a value (70_reset R236; 10_state R31). -/
def retire (s : State) : State := { s with latches := none }

/-- `cmd_ready`: no command is in progress (30_encoding R71; 10_state R33). -/
def State.cmdReady (s : State) : Bool := s.latches.isNone

/-- Hardware reset (R230): any command is abandoned, the latches lose their values, the Voice State is that of
`Voice.afterReset` (log entry 1), OUT is not written. -/
def hardwareReset (s : State) : State := { s with voice := Voice.afterReset, latches := none }

/-- The host's next delivery is taken from the input ports. -/
def takeInput (s : State) : State := { s with inputs := s.inputs.tail }

end Sys2Proof.Machine
end

