-- ==== Sys2Proof/Machine/Operands.lean ====
section
/-! DEFINITION. The operand forms: how the value of a command's operand becomes what is stored or used. Every other operand is
its field's bits as they stand (30_encoding R75) and the decoder delivers it. -/

namespace Sys2Proof.Machine

/-- The constants 0.5, 1.0 and 100.0 of the rules, exact in `F` (00_scope R8). -/
def half : F := 0x3F000000

/-- 1.0. -/
def one : F := 0x3F800000

/-- 100.0. -/
def hundred : F := 0x42C80000

/-- The stored balance of a raw value, `fdiv(i2f(value), 100.0)` (41_param R123): no clamping. -/
def scaleBalance (value : Half) : F := fdiv (i2f (value.toNat : Int)) hundred

/-- The stored detune of a raw value: the integer subtraction first, then `fdiv(i2f(d), 100.0)` (R124, R129). -/
def scaleDetune (value : Half) : F := fdiv (i2f ((value.toNat : Int) - 100)) hundred

/-- `LFO01`: the LFO value rescaled from [-1,1] to [0,1], `fmul(fadd(lfo, 1.0), 0.5)` (42_pitch_detune R142). -/
def rescaleLfo (lfo : F) : F := fmul (fadd lfo one) half

end Sys2Proof.Machine
end

