-- ==== Sys2Proof/Machine/Generators.lean ====
section
/-! DEFINITION. The waveform generators and the waveform multiplexer (40_waveform). -/

namespace Sys2Proof.Machine

/-- `TRI(p)` (R102): four segments, tested in this order with `<=` (R103), the last an unconditional else (R105). -/
def tri (p : F) : F :=
  if fle p 0x3E800000 then fdiv p 0x3E800000
  else if fle p 0x3F000000 then fsub 0x3F800000 (fdiv (fsub p 0x3E800000) 0x3E800000)
  else if fle p 0x3F400000 then fneg (fdiv (fsub p 0x3F000000) 0x3E800000)
  else fadd 0xBF800000 (fdiv (fsub p 0x3F400000) 0x3E800000)

/-- `SEL(code, p)` (R108), where `draw` is the `NOISE()` draw it makes if the code is 4. Codes 5 to 65535 take the default
branch (R109). -/
def sel (draw : F) (code : Half) (p : F) : F :=
  match code.toNat with
  | 0 => wfSaw p
  | 1 => wfSquare p
  | 2 => tri p
  | 3 => wfSine p
  | 4 => draw
  | _ => Config.wfDefaultSample

/-- How many `NOISE()` draws `SEL(code, _)` makes: one when the code is 4, else none (R108). -/
def noiseUse (code : Half) : Nat := if code = 4 then 1 else 0

end Sys2Proof.Machine
end

