-- ==== Sys2Proof/Machine/Resolver.lean ====
section
/-! DEFINITION. The pitch and detune resolver (42_pitch_detune): what a CYCLE computes once, before its first sample step. -/

namespace Sys2Proof.Machine

/-- `F2` of a positive detune (R144). -/
def detunedUp (f1 det lfo01 : F) : F := fmul f1 (fadd one (fmul det lfo01))

/-- `F2` of a zero or negative detune, the product taken left to right (R145). -/
def detunedDown (f1 det lfo01 : F) : F := fmul f1 (fadd one (fmul (fmul half det) lfo01))

/-- The branch on the sign of the detune: both zeros fail `DET > 0.0` (R143). -/
def resolveF2 (f1 det lfo01 : F) : F :=
  if flt 0x00000000 det then detunedUp f1 det lfo01 else detunedDown f1 det lfo01

/-- The latches at the start of the sample loop (R141 to R145, 43_cycle R161, R162). -/
def resolve (note mod : Byte) (lfo det : F) : Latches :=
  let f1 := noteHz note mod
  let lfo01 := rescaleLfo lfo
  let f2 := resolveF2 f1 det lfo01
  { lfo01 := lfo01, f1 := f1, f2 := f2, w1 := fdiv f1 Config.sampleRate, w2 := fdiv f2 Config.sampleRate, n := 0 }

end Sys2Proof.Machine
end

