-- ==== Sys2Proof/Machine/Cycle.lean ====
section
/-! DEFINITION. The CYCLE command (43_cycle): sample mixer, dual phase accumulator, wraparound and hard sync, sample loop. -/

namespace Sys2Proof.Machine

/-- Step 3, the sample mixer: `fadd(fmul(fsub(1.0, BAL), S1), fmul(BAL, S2))` (R164). -/
def mix (bal s1 s2 : F) : F := fadd (fmul (fsub one bal) s1) (fmul bal s2)

/-- The sample a step writes (R163 to R165): both generators are evaluated, oscillator 1 first, at the phases the step
starts with; `draw k` is the `k`-th noise draw from here on. -/
def sampleOut (v : Voice) (draw : Nat → F) : Sample :=
  let s1 := sel (draw 0) v.wf1 v.ph1
  let s2 := sel (draw (noiseUse v.wf1)) v.wf2 v.ph2
  toFixed (mix v.bal s1 s2)

/-- `fsub(x, i2f(ipart(x)))`: the integer part subtracted once (R167, R171, R174). -/
def wrapPhase (k : Nat) (x : F) : F := fsub x (i2f ((ipart k x).toNat : Int))

/-- What step 6 makes of the two advanced phases. -/
structure Wrapped where
  ph1 : F
  ph2 : F
  /-- Free values of `ipart` used. -/
  casts : Nat
  deriving DecidableEq, Repr

/-- Step 6, the wraparound policy (R167 to R172), on the advanced phases `a1`, `a2`: where oscillator 1 wraps, `PH2` takes
its phase if sync is enabled and is else left alone, even at 1 or more; oscillator 2 wraps by itself only where oscillator 1
did not. -/
def wrapPolicy (sync : Half) (k : Nat) (a1 a2 : F) : Wrapped :=
  if reachesOne a1 then
    let p1 := wrapPhase k a1
    { ph1 := p1, ph2 := if syncEnabled sync then p1 else a2, casts := castUse a1 }
  else if reachesOne a2 then
    { ph1 := a1, ph2 := wrapPhase k a2, casts := castUse a2 }
  else
    { ph1 := a1, ph2 := a2, casts := 0 }

/-- One sample step on the latches `l` (R160, R163 to R171): the sample is written before the phases advance (R165). -/
def sampleStepWith (l : Latches) (s : State) : State :=
  let v := s.voice
  let w := wrapPolicy v.sync s.draws.cast (fadd v.ph1 l.w1) (fadd v.ph2 l.w2)
  setLatches { l with n := l.n + 1 }
    (useCasts w.casts
      (setPhases w.ph1 w.ph2
        (useNoiseDraws (noiseUse v.wf1 + noiseUse v.wf2)
          (outWrite l.n (sampleOut v s.noiseDraw) s))))

/-- One sample step of the CYCLE in progress; there is none to make when no latch holds a value. -/
def sampleStep (s : State) : State :=
  match s.latches with
  | none => s
  | some l => sampleStepWith l s

/-- `k` sample steps, in ascending `N` (R162). -/
def sampleSteps : Nat → State → State
  | 0, s => s
  | k + 1, s => sampleSteps k (sampleStep s)

/-- The start of a CYCLE: the resolver runs and `N` is 0 (R160). -/
def cycleStart (note mod : Byte) (lfo : F) (s : State) : State :=
  setLatches (resolve note mod lfo s.voice.det) s

/-- The first `k` sample steps of a CYCLE. -/
def cycleUpTo (note mod : Byte) (lfo : F) (k : Nat) (s : State) : State :=
  sampleSteps k (cycleStart note mod lfo s)

/-- CYCLE (R160): exactly `frames` sample steps, then it retires. An `lfo` outside the caller contract runs by the same
arithmetic (42_pitch_detune R148; log entry 9). -/
def execCycle (note mod : Byte) (lfo : F) (frames : Word) (s : State) : Host.Outcome State Fault Refusal :=
  .next (retire (cycleUpTo note mod lfo frames.toNat s))

end Sys2Proof.Machine
end

