-- ==== Sys2Proof/Machine/Param.lean ====
section
/-! DEFINITION. The PARAM command, one meaning for each row of its index sub-map (41_param; 30_encoding R78). A write stores
the scaled or cast value, unclamped, and touches nothing else; the reserved and unrecognised indices write nothing. -/

namespace Sys2Proof.Machine

/-- A command that reads and writes nothing and retires. -/
def noEffect (s : State) : Host.Outcome State Fault Refusal := .next s

/-- PARAM.WF1 (R121): `vs[WF1] <- value`, a direct cast. -/
def execParamWf1 (value : Half) (s : State) : Host.Outcome State Fault Refusal := .next (setWf1 value s)

/-- PARAM.WF2 (R122): `vs[WF2] <- value`, a direct cast. -/
def execParamWf2 (value : Half) (s : State) : Host.Outcome State Fault Refusal := .next (setWf2 value s)

/-- PARAM.BAL (R123): `vs[BAL] <- fdiv(i2f(value), 100.0)`. -/
def execParamBal (value : Half) (s : State) : Host.Outcome State Fault Refusal := .next (setBal (scaleBalance value) s)

/-- PARAM.DET (R124): `vs[DET] <- fdiv(i2f(value - 100), 100.0)`. -/
def execParamDet (value : Half) (s : State) : Host.Outcome State Fault Refusal := .next (setDet (scaleDetune value) s)

/-- PARAM.SYNC (R125): `vs[SYNC] <- value`, a direct cast. -/
def execParamSync (value : Half) (s : State) : Host.Outcome State Fault Refusal := .next (setSync value s)

/-- PARAM.UNREC.5 (R128): no state is read or written. -/
def execParamUnrec5 (_value : Half) (s : State) : Host.Outcome State Fault Refusal := noEffect s

/-- PARAM.RSVA (R126): the first reserved slot stores nothing. -/
def execParamRsvA (_value : Half) (s : State) : Host.Outcome State Fault Refusal := noEffect s

/-- PARAM.RSVB (R126): the second reserved slot stores nothing. -/
def execParamRsvB (_value : Half) (s : State) : Host.Outcome State Fault Refusal := noEffect s

/-- PARAM.UNREC.8_15 (R128): no state is read or written. -/
def execParamUnrec8to15 (_index _value : Half) (s : State) : Host.Outcome State Fault Refusal := noEffect s

/-- PARAM.UNREC.16_31 (R128): no state is read or written. -/
def execParamUnrec16to31 (_index _value : Half) (s : State) : Host.Outcome State Fault Refusal := noEffect s

/-- PARAM.UNREC.32_63 (R128): no state is read or written. -/
def execParamUnrec32to63 (_index _value : Half) (s : State) : Host.Outcome State Fault Refusal := noEffect s

/-- PARAM.UNREC.64_127 (R128): no state is read or written. -/
def execParamUnrec64to127 (_index _value : Half) (s : State) : Host.Outcome State Fault Refusal := noEffect s

/-- PARAM.UNREC.128_255 (R128): no state is read or written. -/
def execParamUnrec128to255 (_index _value : Half) (s : State) : Host.Outcome State Fault Refusal := noEffect s

/-- PARAM.UNREC.256_511 (R128): no state is read or written. -/
def execParamUnrec256to511 (_index _value : Half) (s : State) : Host.Outcome State Fault Refusal := noEffect s

/-- PARAM.UNREC.512_1023 (R128): no state is read or written. -/
def execParamUnrec512to1023 (_index _value : Half) (s : State) : Host.Outcome State Fault Refusal := noEffect s

/-- PARAM.UNREC.1024_2047 (R128): no state is read or written. -/
def execParamUnrec1024to2047 (_index _value : Half) (s : State) : Host.Outcome State Fault Refusal := noEffect s

/-- PARAM.UNREC.2048_4095 (R128): no state is read or written. -/
def execParamUnrec2048to4095 (_index _value : Half) (s : State) : Host.Outcome State Fault Refusal := noEffect s

/-- PARAM.UNREC.4096_8191 (R128): no state is read or written. -/
def execParamUnrec4096to8191 (_index _value : Half) (s : State) : Host.Outcome State Fault Refusal := noEffect s

/-- PARAM.UNREC.8192_16383 (R128): no state is read or written. -/
def execParamUnrec8192to16383 (_index _value : Half) (s : State) : Host.Outcome State Fault Refusal := noEffect s

/-- PARAM.UNREC.16384_32767 (R128): no state is read or written. -/
def execParamUnrec16384to32767 (_index _value : Half) (s : State) : Host.Outcome State Fault Refusal := noEffect s

/-- PARAM.UNREC.32768_65535 (R128): no state is read or written. -/
def execParamUnrec32768to65535 (_index _value : Half) (s : State) : Host.Outcome State Fault Refusal := noEffect s

end Sys2Proof.Machine
end

