-- ==== Sys2Proof/Machine/Lifecycle.lean ====
section
/-! DEFINITION. INIT, the note events and the reserved opcodes (44_lifecycle). -/

namespace Sys2Proof.Machine

/-- The Voice State INIT leaves (R191), its two phases the draws `p` and `q`, `PH1` the first (R192). -/
def initVoice (p q : F) : Voice :=
  { wf1 := 1, wf2 := 1, sync := 0, ph1 := p, ph2 := q, bal := half, det := half }

/-- INIT (R191): all seven registers; the operands are not used (R194). -/
def execInit (_platformId _apiVersion : Word) (s : State) : Host.Outcome State Fault Refusal :=
  .next (usePhaseDraws 2 { s with voice := initVoice (s.phaseDraw 0) (s.phaseDraw 1) })

/-- NOTE_ON (R196): no action; in particular no phase is reset. -/
def execNoteOn (_note _mod : Byte) (_lfo : F) (s : State) : Host.Outcome State Fault Refusal := noEffect s

/-- NOTE_OFF (R197): no action. -/
def execNoteOff (_note _mod : Byte) (_lfo : F) (s : State) : Host.Outcome State Fault Refusal := noEffect s

/-- RESERVED.00 (R198): accepted and retired with no effect (30_encoding R77). -/
def execReserved00 (s : State) : Host.Outcome State Fault Refusal := noEffect s

/-- RESERVED.06_07 (R198): accepted and retired with no effect (30_encoding R77). -/
def execReserved06to07 (_op : Byte) (s : State) : Host.Outcome State Fault Refusal := noEffect s

/-- RESERVED.08_0F (R198): accepted and retired with no effect (30_encoding R77). -/
def execReserved08to0F (_op : Byte) (s : State) : Host.Outcome State Fault Refusal := noEffect s

/-- RESERVED.10_1F (R198): accepted and retired with no effect (30_encoding R77). -/
def execReserved10to1F (_op : Byte) (s : State) : Host.Outcome State Fault Refusal := noEffect s

/-- RESERVED.20_3F (R198): accepted and retired with no effect (30_encoding R77). -/
def execReserved20to3F (_op : Byte) (s : State) : Host.Outcome State Fault Refusal := noEffect s

/-- RESERVED.40_7F (R198): accepted and retired with no effect (30_encoding R77). -/
def execReserved40to7F (_op : Byte) (s : State) : Host.Outcome State Fault Refusal := noEffect s

/-- RESERVED.80_FF (R198): accepted and retired with no effect (30_encoding R77). -/
def execReserved80toFF (_op : Byte) (s : State) : Host.Outcome State Fault Refusal := noEffect s

end Sys2Proof.Machine
end

