-- ==== Sys2Proof/Syntax.lean ====
section
/-! DEFINITION. The command set (30_encoding R72 to R80): one constructor for each of the 32 rows of spec/opcode_table.json.
An operand is the field's bits as R75 reads them; a field R73 marks "ignored" is no operand. -/

namespace Sys2Proof

/-- The commands of the engine, one constructor a row of the opcode table (R80). -/
inductive Instr where
  /-- INIT (R191): initialise the Voice State; both operands are unused (R194). -/
  | init (platformId apiVersion : Word)
  /-- CYCLE (R160): produce `frames` samples. -/
  | cycle (note mod : Byte) (lfo : F) (frames : Word)
  /-- NOTE_ON (R196): note start: no action. -/
  | noteOn (note mod : Byte) (lfo : F)
  /-- NOTE_OFF (R197): note end: no action. -/
  | noteOff (note mod : Byte) (lfo : F)
  /-- PARAM.WF1 (R121): index 0, `WF1`. -/
  | paramWf1 (value : Half)
  /-- PARAM.WF2 (R122): index 1, `WF2`. -/
  | paramWf2 (value : Half)
  /-- PARAM.BAL (R123): index 2, `BAL`. -/
  | paramBal (value : Half)
  /-- PARAM.DET (R124): index 3, `DET`. -/
  | paramDet (value : Half)
  /-- PARAM.SYNC (R125): index 4, `SYNC`. -/
  | paramSync (value : Half)
  /-- PARAM.UNREC.5 (R128): index 5, unrecognised. -/
  | paramUnrec5 (value : Half)
  /-- PARAM.RSVA (R126): index 6, first reserved slot. -/
  | paramRsvA (value : Half)
  /-- PARAM.RSVB (R126): index 7, second reserved slot. -/
  | paramRsvB (value : Half)
  /-- PARAM.UNREC.8_15 (R128): indices 8 to 15, unrecognised. -/
  | paramUnrec8to15 (index value : Half)
  /-- PARAM.UNREC.16_31 (R128): indices 16 to 31, unrecognised. -/
  | paramUnrec16to31 (index value : Half)
  /-- PARAM.UNREC.32_63 (R128): indices 32 to 63, unrecognised. -/
  | paramUnrec32to63 (index value : Half)
  /-- PARAM.UNREC.64_127 (R128): indices 64 to 127, unrecognised. -/
  | paramUnrec64to127 (index value : Half)
  /-- PARAM.UNREC.128_255 (R128): indices 128 to 255, unrecognised. -/
  | paramUnrec128to255 (index value : Half)
  /-- PARAM.UNREC.256_511 (R128): indices 256 to 511, unrecognised. -/
  | paramUnrec256to511 (index value : Half)
  /-- PARAM.UNREC.512_1023 (R128): indices 512 to 1023, unrecognised. -/
  | paramUnrec512to1023 (index value : Half)
  /-- PARAM.UNREC.1024_2047 (R128): indices 1024 to 2047, unrecognised. -/
  | paramUnrec1024to2047 (index value : Half)
  /-- PARAM.UNREC.2048_4095 (R128): indices 2048 to 4095, unrecognised. -/
  | paramUnrec2048to4095 (index value : Half)
  /-- PARAM.UNREC.4096_8191 (R128): indices 4096 to 8191, unrecognised. -/
  | paramUnrec4096to8191 (index value : Half)
  /-- PARAM.UNREC.8192_16383 (R128): indices 8192 to 16383, unrecognised. -/
  | paramUnrec8192to16383 (index value : Half)
  /-- PARAM.UNREC.16384_32767 (R128): indices 16384 to 32767, unrecognised. -/
  | paramUnrec16384to32767 (index value : Half)
  /-- PARAM.UNREC.32768_65535 (R128): indices 32768 to 65535, unrecognised. -/
  | paramUnrec32768to65535 (index value : Half)
  /-- RESERVED.00 (R198): opcode 0x00; the all-zero word is `NOP`. -/
  | reserved00
  /-- RESERVED.06_07 (R198): opcodes 06 to 07 (hexadecimal), reserved. -/
  | reserved06to07 (op : Byte)
  /-- RESERVED.08_0F (R198): opcodes 08 to 0F (hexadecimal), reserved. -/
  | reserved08to0F (op : Byte)
  /-- RESERVED.10_1F (R198): opcodes 10 to 1F (hexadecimal), reserved. -/
  | reserved10to1F (op : Byte)
  /-- RESERVED.20_3F (R198): opcodes 20 to 3F (hexadecimal), reserved. -/
  | reserved20to3F (op : Byte)
  /-- RESERVED.40_7F (R198): opcodes 40 to 7F (hexadecimal), reserved. -/
  | reserved40to7F (op : Byte)
  /-- RESERVED.80_FF (R198): opcodes 80 to FF (hexadecimal), reserved. -/
  | reserved80toFF (op : Byte)
  deriving DecidableEq, Repr

end Sys2Proof
end

