-- ==== Sys2Proof/Machine/Dispatch.lean ====
section
/-! DEFINITION. What each command does: one arm a constructor, each one direct call of its meaning. -/

namespace Sys2Proof.Machine

def exec (i : Instr) (s : State) : Host.Outcome State Fault Refusal :=
  match i with
  | .init platformId apiVersion => Sys2Proof.Machine.execInit platformId apiVersion s
  | .cycle note mod lfo frames => Sys2Proof.Machine.execCycle note mod lfo frames s
  | .noteOn note mod lfo => Sys2Proof.Machine.execNoteOn note mod lfo s
  | .noteOff note mod lfo => Sys2Proof.Machine.execNoteOff note mod lfo s
  | .paramWf1 value => Sys2Proof.Machine.execParamWf1 value s
  | .paramWf2 value => Sys2Proof.Machine.execParamWf2 value s
  | .paramBal value => Sys2Proof.Machine.execParamBal value s
  | .paramDet value => Sys2Proof.Machine.execParamDet value s
  | .paramSync value => Sys2Proof.Machine.execParamSync value s
  | .paramUnrec5 value => Sys2Proof.Machine.execParamUnrec5 value s
  | .paramRsvA value => Sys2Proof.Machine.execParamRsvA value s
  | .paramRsvB value => Sys2Proof.Machine.execParamRsvB value s
  | .paramUnrec8to15 index value => Sys2Proof.Machine.execParamUnrec8to15 index value s
  | .paramUnrec16to31 index value => Sys2Proof.Machine.execParamUnrec16to31 index value s
  | .paramUnrec32to63 index value => Sys2Proof.Machine.execParamUnrec32to63 index value s
  | .paramUnrec64to127 index value => Sys2Proof.Machine.execParamUnrec64to127 index value s
  | .paramUnrec128to255 index value => Sys2Proof.Machine.execParamUnrec128to255 index value s
  | .paramUnrec256to511 index value => Sys2Proof.Machine.execParamUnrec256to511 index value s
  | .paramUnrec512to1023 index value => Sys2Proof.Machine.execParamUnrec512to1023 index value s
  | .paramUnrec1024to2047 index value => Sys2Proof.Machine.execParamUnrec1024to2047 index value s
  | .paramUnrec2048to4095 index value => Sys2Proof.Machine.execParamUnrec2048to4095 index value s
  | .paramUnrec4096to8191 index value => Sys2Proof.Machine.execParamUnrec4096to8191 index value s
  | .paramUnrec8192to16383 index value => Sys2Proof.Machine.execParamUnrec8192to16383 index value s
  | .paramUnrec16384to32767 index value => Sys2Proof.Machine.execParamUnrec16384to32767 index value s
  | .paramUnrec32768to65535 index value => Sys2Proof.Machine.execParamUnrec32768to65535 index value s
  | .reserved00 => Sys2Proof.Machine.execReserved00 s
  | .reserved06to07 op => Sys2Proof.Machine.execReserved06to07 op s
  | .reserved08to0F op => Sys2Proof.Machine.execReserved08to0F op s
  | .reserved10to1F op => Sys2Proof.Machine.execReserved10to1F op s
  | .reserved20to3F op => Sys2Proof.Machine.execReserved20to3F op s
  | .reserved40to7F op => Sys2Proof.Machine.execReserved40to7F op s
  | .reserved80toFF op => Sys2Proof.Machine.execReserved80toFF op s

end Sys2Proof.Machine
end

