-- ==== Sys2Proof/WellFormed.lean ====
section
/-! DEFINITION. Which terms of `Instr` are commands: an index or opcode a constructor carries lies in the range of its row of
the opcode table (30_encoding R78, R80). Every other field admits every value (R76; out-of-range PARAM values are legal, R211). -/

namespace Sys2Proof

/-- `lo <= x <= hi`, as numbers. -/
def inRange (lo hi : Nat) {n : Nat} (x : BitVec n) : Bool := decide (lo ≤ x.toNat) && decide (x.toNat ≤ hi)

/-- The check of one command. -/
def WellFormed : Instr → Bool
  | .init _ _ => true
  | .cycle _ _ _ _ => true
  | .noteOn _ _ _ => true
  | .noteOff _ _ _ => true
  | .paramWf1 _ => true
  | .paramWf2 _ => true
  | .paramBal _ => true
  | .paramDet _ => true
  | .paramSync _ => true
  | .paramUnrec5 _ => true
  | .paramRsvA _ => true
  | .paramRsvB _ => true
  | .paramUnrec8to15 index _ => inRange 8 15 index
  | .paramUnrec16to31 index _ => inRange 16 31 index
  | .paramUnrec32to63 index _ => inRange 32 63 index
  | .paramUnrec64to127 index _ => inRange 64 127 index
  | .paramUnrec128to255 index _ => inRange 128 255 index
  | .paramUnrec256to511 index _ => inRange 256 511 index
  | .paramUnrec512to1023 index _ => inRange 512 1023 index
  | .paramUnrec1024to2047 index _ => inRange 1024 2047 index
  | .paramUnrec2048to4095 index _ => inRange 2048 4095 index
  | .paramUnrec4096to8191 index _ => inRange 4096 8191 index
  | .paramUnrec8192to16383 index _ => inRange 8192 16383 index
  | .paramUnrec16384to32767 index _ => inRange 16384 32767 index
  | .paramUnrec32768to65535 index _ => inRange 32768 65535 index
  | .reserved00 => true
  | .reserved06to07 op => inRange 0x06 0x07 op
  | .reserved08to0F op => inRange 0x08 0x0F op
  | .reserved10to1F op => inRange 0x10 0x1F op
  | .reserved20to3F op => inRange 0x20 0x3F op
  | .reserved40to7F op => inRange 0x40 0x7F op
  | .reserved80toFF op => inRange 0x80 0xFF op

end Sys2Proof
end

