-- ==== Sys2Proof/Decode.lean ====
section
/-! DEFINITION. The command word (30_encoding R72 to R80): its fields, the decoder, the encoder, and the opcode table's own
match and mask rows. The decoder is total on command words: the table covers all 2^96 of them (R80), so what it rejects by
name is only a bit string that is no command word. -/

namespace Sys2Proof

/-! ## Fields (R72) -/

/-- Bits 95:88, the opcode. -/
def fieldOp (w : CmdWord) : Byte := w.extractLsb' 88 8

/-- Bits 87:80, `rsv`: ignored. -/
def fieldRsv (w : CmdWord) : Byte := w.extractLsb' 80 8

/-- Bits 79:64, the first operand. -/
def fieldA (w : CmdWord) : Half := w.extractLsb' 64 16

/-- Bits 63:32, the second operand. -/
def fieldB (w : CmdWord) : Word := w.extractLsb' 32 32

/-- Bits 31:0, the third operand. -/
def fieldC (w : CmdWord) : Word := w.extractLsb' 0 32

/-- `note` = `A[15:8]` (R75). -/
def noteOf (a : Half) : Byte := a.extractLsb' 8 8

/-- `mod` = `A[7:0]` (R75). -/
def modOf (a : Half) : Byte := a.extractLsb' 0 8

/-- `value` = `B[15:0]` (R75). -/
def valueOf (b : Word) : Half := b.extractLsb' 0 16

/-- `cmd_word = {op, rsv, A, B, C}` (R72). -/
def packWord (op rsv : Byte) (a : Half) (b c : Word) : CmdWord := (op ++ rsv ++ a ++ b ++ c : BitVec 96)

/-! ## Decoder -/

/-- The PARAM row that `index` selects (R78, R80): 0 to 7 one row each, above that the row of its leading 1 bit. -/
def decodeParam (index value : Half) : Instr :=
  let i := index.toNat
  if i = 0 then .paramWf1 value
  else if i = 1 then .paramWf2 value
  else if i = 2 then .paramBal value
  else if i = 3 then .paramDet value
  else if i = 4 then .paramSync value
  else if i = 5 then .paramUnrec5 value
  else if i = 6 then .paramRsvA value
  else if i = 7 then .paramRsvB value
  else if i ≤ 15 then .paramUnrec8to15 index value
  else if i ≤ 31 then .paramUnrec16to31 index value
  else if i ≤ 63 then .paramUnrec32to63 index value
  else if i ≤ 127 then .paramUnrec64to127 index value
  else if i ≤ 255 then .paramUnrec128to255 index value
  else if i ≤ 511 then .paramUnrec256to511 index value
  else if i ≤ 1023 then .paramUnrec512to1023 index value
  else if i ≤ 2047 then .paramUnrec1024to2047 index value
  else if i ≤ 4095 then .paramUnrec2048to4095 index value
  else if i ≤ 8191 then .paramUnrec4096to8191 index value
  else if i ≤ 16383 then .paramUnrec8192to16383 index value
  else if i ≤ 32767 then .paramUnrec16384to32767 index value
  else .paramUnrec32768to65535 index value

/-- The row of a reserved opcode (R77, R80). -/
def decodeReserved (op : Byte) : Instr :=
  let o := op.toNat
  if o = 0 then .reserved00
  else if o ≤ 0x07 then .reserved06to07 op
  else if o ≤ 0x0F then .reserved08to0F op
  else if o ≤ 0x1F then .reserved10to1F op
  else if o ≤ 0x3F then .reserved20to3F op
  else if o ≤ 0x7F then .reserved40to7F op
  else .reserved80toFF op

/-- The command a command word encodes: everything is told from `op`, and for PARAM from `op` and `A` (R72 to R75). Ignored
fields are not looked at (R76). -/
def decode (w : CmdWord) : Instr :=
  let op := (fieldOp w).toNat
  let a := fieldA w
  if op = 0x01 then .init (fieldB w) (fieldC w)
  else if op = 0x02 then .cycle (noteOf a) (modOf a) (fieldB w) (fieldC w)
  else if op = 0x03 then .noteOn (noteOf a) (modOf a) (fieldB w)
  else if op = 0x04 then .noteOff (noteOf a) (modOf a) (fieldB w)
  else if op = 0x05 then decodeParam a (valueOf (fieldB w))
  else decodeReserved (fieldOp w)

/-- Why a bit string is no command. -/
inductive DecodeReject where
  /-- More than 96 bits: there is one command length and no longer form (R72, R79). -/
  | notACommandWord
  deriving DecidableEq, Repr

/-- The command in an instruction of `nbits` bits with value `w`, bit 0 the least significant as in spec/opcode_table.json,
whose one word is the 96-bit command word; bits above `nbits` are 0. -/
def decodeBits (nbits w : Nat) : Except DecodeReject Instr :=
  if nbits ≤ 96 then .ok (decode (BitVec.ofNat 96 (w % 2 ^ nbits))) else .error .notACommandWord

/-- What the decoder reads from an instruction numbered as the opcode table numbers it. -/
def decodeTableWord (nbits w : Nat) : Option Instr :=
  match decodeBits nbits w with
  | .ok i => some i
  | .error _ => none

/-! ## Encoder -/

/-- A PARAM word: format P, ignored fields zero (R73, R81). -/
def encodeParam (index value : Half) : CmdWord := packWord 0x05 0 index (0#16 ++ value : BitVec 32) 0

/-- The command word of a command, `rsv` and ignored fields zero (R72 to R75, R81). -/
def encode : Instr → CmdWord
  | .init platformId apiVersion => packWord 0x01 0 0 platformId apiVersion
  | .cycle note mod lfo frames => packWord 0x02 0 (note ++ mod : BitVec 16) lfo frames
  | .noteOn note mod lfo => packWord 0x03 0 (note ++ mod : BitVec 16) lfo 0
  | .noteOff note mod lfo => packWord 0x04 0 (note ++ mod : BitVec 16) lfo 0
  | .paramWf1 value => encodeParam 0 value
  | .paramWf2 value => encodeParam 1 value
  | .paramBal value => encodeParam 2 value
  | .paramDet value => encodeParam 3 value
  | .paramSync value => encodeParam 4 value
  | .paramUnrec5 value => encodeParam 5 value
  | .paramRsvA value => encodeParam 6 value
  | .paramRsvB value => encodeParam 7 value
  | .paramUnrec8to15 index value => encodeParam index value
  | .paramUnrec16to31 index value => encodeParam index value
  | .paramUnrec32to63 index value => encodeParam index value
  | .paramUnrec64to127 index value => encodeParam index value
  | .paramUnrec128to255 index value => encodeParam index value
  | .paramUnrec256to511 index value => encodeParam index value
  | .paramUnrec512to1023 index value => encodeParam index value
  | .paramUnrec1024to2047 index value => encodeParam index value
  | .paramUnrec2048to4095 index value => encodeParam index value
  | .paramUnrec4096to8191 index value => encodeParam index value
  | .paramUnrec8192to16383 index value => encodeParam index value
  | .paramUnrec16384to32767 index value => encodeParam index value
  | .paramUnrec32768to65535 index value => encodeParam index value
  | .reserved00 => packWord 0x00 0 0 0 0
  | .reserved06to07 op => packWord op 0 0 0 0
  | .reserved08to0F op => packWord op 0 0 0 0
  | .reserved10to1F op => packWord op 0 0 0 0
  | .reserved20to3F op => packWord op 0 0 0 0
  | .reserved40to7F op => packWord op 0 0 0 0
  | .reserved80toFF op => packWord op 0 0 0 0

/-! ## The opcode table's rows (R80, spec/opcode_table.json) -/

/-- One row: a word `w` selects it when `w AND mask = pattern`. -/
structure OpRow where
  pattern : CmdWord
  mask : CmdWord
  deriving DecidableEq, Repr

/-- Whether a word selects a row (R80). -/
def OpRow.selects (r : OpRow) (w : CmdWord) : Bool := decide (w &&& r.mask = r.pattern)

/-- The table's row of each constructor, its match and mask as spec/opcode_table.json gives them. -/
def rowOf : Instr → OpRow
  | .init _ _ => ⟨0x010000000000000000000000, 0xFF0000000000000000000000⟩
  | .cycle _ _ _ _ => ⟨0x020000000000000000000000, 0xFF0000000000000000000000⟩
  | .noteOn _ _ _ => ⟨0x030000000000000000000000, 0xFF0000000000000000000000⟩
  | .noteOff _ _ _ => ⟨0x040000000000000000000000, 0xFF0000000000000000000000⟩
  | .paramWf1 _ => ⟨0x050000000000000000000000, 0xFF00FFFF0000000000000000⟩
  | .paramWf2 _ => ⟨0x050000010000000000000000, 0xFF00FFFF0000000000000000⟩
  | .paramBal _ => ⟨0x050000020000000000000000, 0xFF00FFFF0000000000000000⟩
  | .paramDet _ => ⟨0x050000030000000000000000, 0xFF00FFFF0000000000000000⟩
  | .paramSync _ => ⟨0x050000040000000000000000, 0xFF00FFFF0000000000000000⟩
  | .paramUnrec5 _ => ⟨0x050000050000000000000000, 0xFF00FFFF0000000000000000⟩
  | .paramRsvA _ => ⟨0x050000060000000000000000, 0xFF00FFFF0000000000000000⟩
  | .paramRsvB _ => ⟨0x050000070000000000000000, 0xFF00FFFF0000000000000000⟩
  | .paramUnrec8to15 _ _ => ⟨0x050000080000000000000000, 0xFF00FFF80000000000000000⟩
  | .paramUnrec16to31 _ _ => ⟨0x050000100000000000000000, 0xFF00FFF00000000000000000⟩
  | .paramUnrec32to63 _ _ => ⟨0x050000200000000000000000, 0xFF00FFE00000000000000000⟩
  | .paramUnrec64to127 _ _ => ⟨0x050000400000000000000000, 0xFF00FFC00000000000000000⟩
  | .paramUnrec128to255 _ _ => ⟨0x050000800000000000000000, 0xFF00FF800000000000000000⟩
  | .paramUnrec256to511 _ _ => ⟨0x050001000000000000000000, 0xFF00FF000000000000000000⟩
  | .paramUnrec512to1023 _ _ => ⟨0x050002000000000000000000, 0xFF00FE000000000000000000⟩
  | .paramUnrec1024to2047 _ _ => ⟨0x050004000000000000000000, 0xFF00FC000000000000000000⟩
  | .paramUnrec2048to4095 _ _ => ⟨0x050008000000000000000000, 0xFF00F8000000000000000000⟩
  | .paramUnrec4096to8191 _ _ => ⟨0x050010000000000000000000, 0xFF00F0000000000000000000⟩
  | .paramUnrec8192to16383 _ _ => ⟨0x050020000000000000000000, 0xFF00E0000000000000000000⟩
  | .paramUnrec16384to32767 _ _ => ⟨0x050040000000000000000000, 0xFF00C0000000000000000000⟩
  | .paramUnrec32768to65535 _ _ => ⟨0x050080000000000000000000, 0xFF0080000000000000000000⟩
  | .reserved00 => ⟨0x000000000000000000000000, 0xFF0000000000000000000000⟩
  | .reserved06to07 _ => ⟨0x060000000000000000000000, 0xFE0000000000000000000000⟩
  | .reserved08to0F _ => ⟨0x080000000000000000000000, 0xF80000000000000000000000⟩
  | .reserved10to1F _ => ⟨0x100000000000000000000000, 0xF00000000000000000000000⟩
  | .reserved20to3F _ => ⟨0x200000000000000000000000, 0xE00000000000000000000000⟩
  | .reserved40to7F _ => ⟨0x400000000000000000000000, 0xC00000000000000000000000⟩
  | .reserved80toFF _ => ⟨0x800000000000000000000000, 0x800000000000000000000000⟩

/-- The 32 rows of the table, in its order. -/
def opcodeTable : List OpRow :=
  [ rowOf (.init 0 0),
    rowOf (.cycle 0 0 0 0),
    rowOf (.noteOn 0 0 0),
    rowOf (.noteOff 0 0 0),
    rowOf (.paramWf1 0),
    rowOf (.paramWf2 0),
    rowOf (.paramBal 0),
    rowOf (.paramDet 0),
    rowOf (.paramSync 0),
    rowOf (.paramUnrec5 0),
    rowOf (.paramRsvA 0),
    rowOf (.paramRsvB 0),
    rowOf (.paramUnrec8to15 0 0),
    rowOf (.paramUnrec16to31 0 0),
    rowOf (.paramUnrec32to63 0 0),
    rowOf (.paramUnrec64to127 0 0),
    rowOf (.paramUnrec128to255 0 0),
    rowOf (.paramUnrec256to511 0 0),
    rowOf (.paramUnrec512to1023 0 0),
    rowOf (.paramUnrec1024to2047 0 0),
    rowOf (.paramUnrec2048to4095 0 0),
    rowOf (.paramUnrec4096to8191 0 0),
    rowOf (.paramUnrec8192to16383 0 0),
    rowOf (.paramUnrec16384to32767 0 0),
    rowOf (.paramUnrec32768to65535 0 0),
    rowOf .reserved00,
    rowOf (.reserved06to07 0),
    rowOf (.reserved08to0F 0),
    rowOf (.reserved10to1F 0),
    rowOf (.reserved20to3F 0),
    rowOf (.reserved40to7F 0),
    rowOf (.reserved80toFF 0) ]

end Sys2Proof
end

