-- ==== Sys2Proof/Machine/HostPort.lean ====
section
/-! DEFINITION. The command port and the reset input (30_encoding R70, R71; 70_reset R230, R231): how a delivery of the host
becomes a command, and what a hardware reset does to one in progress. -/

namespace Sys2Proof.Machine

/-- The engine samples the command word in the clock in which it accepts it, and no other (R62, R71). -/
def accept (word : CmdWord) : Instr := decode word

/-- A clock in which the engine is idle and nothing is offered: its state is held (60_exceptions R222). -/
def idle (s : State) : State := s

/-- A command abandoned after `writes` of its OUT writes (R231): of a CYCLE, the samples already written keep their values,
never more than `frames`; no other command writes OUT (20_memory R51). Its register writes are lost in the reset that
follows (log entry 11). -/
def abandon (i : Instr) (writes : Nat) (s : State) : State :=
  match i with
  | .cycle note mod lfo frames => cycleUpTo note mod lfo (min writes frames.toNat) s
  | _ => s

/-- `rst` = 1 with no command in progress; a word offered in that clock is not accepted (R230, R231). -/
def resetIdle (s : State) : State := hardwareReset (takeInput s)

/-- `rst` = 1 while the command of `word` is in progress (R231). -/
def resetInProgress (word : CmdWord) (writes : Nat) (s : State) : State :=
  hardwareReset (abandon (accept word) writes (takeInput s))

/-- The host's program: the command word with value `w` of `nbits` bits, offered next. -/
def offerWord (nbits w : Nat) (s : State) : State :=
  { s with inputs := .command (BitVec.ofNat 96 (w % 2 ^ nbits)) :: s.inputs }

end Sys2Proof.Machine
end

