-- ==== Sys2Proof/Machine/Step.lean ====
section
/-! DEFINITION. One step: the engine takes the host's next delivery and acts on it, a command to its retirement (00_scope R14). -/

namespace Sys2Proof.Machine

/-- One step of the machine. -/
def step (s : State) : Host.Outcome State Fault Refusal :=
  match s.inputs with
  | [] => .next (idle s)
  | .command word :: _ => exec (accept word) (takeInput s)
  | .reset :: _ => .next (resetIdle s)
  | .resetOffered _ :: _ => .next (resetIdle s)
  | .resetDuring word writes :: _ => .next (resetInProgress word writes s)

/-- The state with an instruction where the next step takes it: offered at the command port, ahead of every other delivery
(log entry 3). -/
def State.withFetchWord (s : State) (nbits w : Nat) : State := offerWord nbits w s

end Sys2Proof.Machine
end

