-- ==== Sys2Proof/Assembly.lean ====
section
/-! DEFINITION. The notation of 30_encoding R81 and R82: the five mnemonics with their operands, the pseudo-commands, and the
word the assembler makes of each. No rule of the engine depends on it; every expansion is one command word. -/

namespace Sys2Proof

/-- A line of a program (R81, R82). -/
inductive AsmLine where
  /-- `INIT platform_id, api_version`. -/
  | init (platformId apiVersion : Word)
  /-- `CYCLE note, mod, lfo, frames`. -/
  | cycle (note mod : Byte) (lfo : F) (frames : Word)
  /-- `NOTE_ON note, mod, lfo`. -/
  | noteOn (note mod : Byte) (lfo : F)
  /-- `NOTE_OFF note, mod, lfo`. -/
  | noteOff (note mod : Byte) (lfo : F)
  /-- `PARAM index, value`. -/
  | param (index value : Half)
  /-- `WF1 v` = `PARAM 0, v`. -/
  | wf1 (v : Half)
  /-- `WF2 v` = `PARAM 1, v`. -/
  | wf2 (v : Half)
  /-- `BAL v` = `PARAM 2, v`. -/
  | bal (v : Half)
  /-- `DET v` = `PARAM 3, v`. -/
  | det (v : Half)
  /-- `SYNC v` = `PARAM 4, v`. -/
  | sync (v : Half)
  /-- `RSVA v` = `PARAM 6, v`. -/
  | rsvA (v : Half)
  /-- `RSVB v` = `PARAM 7, v`. -/
  | rsvB (v : Half)
  /-- `NOP`, the all-zero word. -/
  | nop
  deriving DecidableEq, Repr

/-- The operand names of the waveform and sync enumerations (R10, R82). -/
inductive AsmName where
  | saw | square | triangle | sine | noise | disabled | enabled
  deriving DecidableEq, Repr

/-- The number an operand name stands for (R10). -/
def asmNumber : AsmName → Half
  | .saw => 0
  | .square => 1
  | .triangle => 2
  | .sine => 3
  | .noise => 4
  | .disabled => 0
  | .enabled => 1

/-- The assembler: `rsv` and every ignored field zero (R81), a pseudo-command by its expansion (R82). -/
def assemble : AsmLine → CmdWord
  | .init platformId apiVersion => encode (.init platformId apiVersion)
  | .cycle note mod lfo frames => encode (.cycle note mod lfo frames)
  | .noteOn note mod lfo => encode (.noteOn note mod lfo)
  | .noteOff note mod lfo => encode (.noteOff note mod lfo)
  | .param index value => encodeParam index value
  | .wf1 v => encodeParam 0 v
  | .wf2 v => encodeParam 1 v
  | .bal v => encodeParam 2 v
  | .det v => encodeParam 3 v
  | .sync v => encodeParam 4 v
  | .rsvA v => encodeParam 6 v
  | .rsvB v => encodeParam 7 v
  | .nop => 0

end Sys2Proof
end

