-- ==== Sys2Proof/Safety.lean ====
section
/-! DEFINITION. The terms claims use: the invariant of the machine, the caller contracts of the spec, and exact real-number
readings of the `F` results. Nothing here is checked by the machine; the engine checks no contract (00_scope R11). -/

namespace Sys2Proof.Machine

/-! ## The invariant -/

/-- A value the balance register can hold: `fdiv(i2f(v), 100)` for a 16-bit `v` (10_state R26). -/
def BalanceStorable (b : F) : Prop := ∃ v : Half, b = scaleBalance v

/-- A value the detune register can hold: `fdiv(i2f(v - 100), 100)` for a 16-bit `v` (R27). -/
def DetuneStorable (d : F) : Prop := ∃ v : Half, d = scaleDetune v

/-- The data of the last of these transfers to slot `i`. -/
def lastWritten : List Transfer → Nat → Option Sample
  | [], _ => none
  | t :: ts, i =>
    match lastWritten ts i with
    | some v => some v
    | none => if t.slot.toNat = i then some t.data else none

/-- What every step keeps: no latch holds a value between commands (R31), so the engine is ready for the next (R71); OUT is in
canonical form and holds exactly what the output port transferred (R50, R57); BAL and DET hold values a command can store. -/
structure State.Inv (s : State) : Prop where
  latches : s.latches = none
  out_wf : Memory.wf s.out = true
  out_port : ∀ i, s.outRead i = lastWritten s.outPort i
  bal : BalanceStorable s.voice.bal
  det : DetuneStorable s.voice.det

/-! ## The caller contracts (42_pitch_detune R147) -/

/-- Contract (b): `lfo` is finite and lies in [-1,1]. -/
def lfoInContract (lfo : F) : Bool := isFinite lfo && inSample lfo

/-- The assumption `NOTE_HZ_BOUND` of R141 for one pair: below the Nyquist frequency, 24000.0. -/
def noteHzBound (note mod : Byte) : Bool := flt (noteHz note mod) 0x46BB8000

/-- What the phases keep in runs within the contracts (43_cycle R173): `PH1` in [0,1), `PH2` in [0,2), and a `PH2` of 1 or more
only while `PH1` is so small (at most 0.5 - 2^-22) that oscillator 1 cannot wrap in the next sample step; with the detune in
[-1,1] that keeps `W2` below 1. -/
structure Voice.PhaseInv (v : Voice) : Prop where
  ph1 : inUnit v.ph1 = true
  ph2_nonneg : fle 0x00000000 v.ph2 = true
  ph2_lt_two : flt v.ph2 0x40000000 = true
  unwrapped : reachesOne v.ph2 = true → fle v.ph1 0x3EFFFFF8 = true
  det : inSample v.det = true

/-! ## Words that differ in ignored fields only (30_encoding R73, R76) -/

/-- Two words agree in `op` and in every field that the format of `op` does not mark "ignored". -/
def sameUsedFields (w w' : CmdWord) : Bool :=
  decide (fieldOp w = fieldOp w') &&
    match (fieldOp w).toNat with
    | 0x01 => decide (fieldB w = fieldB w') && decide (fieldC w = fieldC w')
    | 0x02 => decide (fieldA w = fieldA w') && decide (fieldB w = fieldB w') && decide (fieldC w = fieldC w')
    | 0x03 => decide (fieldA w = fieldA w') && decide (fieldB w = fieldB w')
    | 0x04 => decide (fieldA w = fieldA w') && decide (fieldB w = fieldB w')
    | 0x05 => decide (fieldA w = fieldA w') && decide (valueOf (fieldB w) = valueOf (fieldB w'))
    | _ => true

/-- `rsv` and every field that the format of `op` marks "ignored" are zero: the words the assembler writes (R73, R81). -/
def ignoredFieldsZero (w : CmdWord) : Bool :=
  decide (fieldRsv w = 0) &&
    match (fieldOp w).toNat with
    | 0x01 => decide (fieldA w = 0)
    | 0x02 => true
    | 0x03 => decide (fieldC w = 0)
    | 0x04 => decide (fieldC w = 0)
    | 0x05 => decide ((fieldB w).toNat < 2 ^ 16) && decide (fieldC w = 0)
    | _ => decide (fieldA w = 0) && decide (fieldB w = 0) && decide (fieldC w = 0)

/-! ## Exact values -/

/-- `r` is the value of `F` nearest to `num / den` units of 2^-149, and where two are equally near its last bit is 0 (R8). -/
def NearestEven (num : Int) (den : Nat) (r : F) : Prop :=
  ∀ y : F, isFinite y = true →
    |num - den * units r| ≤ |num - den * units y| ∧
      (units y ≠ units r → |num - den * units r| = |num - den * units y| → r.toNat % 2 = 0)

/-- `r` is `num / den` units of 2^-149 rounded once to `F` (R8): below the magnitude (2^25 - 1) * 2^252 units, half a last place
above the greatest finite value, it is finite and nearest, ties to even; from there on it is the infinity of its sign. -/
def RoundsTo (num : Int) (den : Nat) (r : F) : Prop :=
  (|num| < (2 ^ 25 - 1) * 2 ^ 252 * (den : Int) → isFinite r = true ∧ NearestEven num den r) ∧
  ((2 ^ 25 - 1) * 2 ^ 252 * (den : Int) ≤ |num| → r = infF (decide (num < 0)))

/-- The triangle in exact arithmetic, argument and result in units of 2^-149 (R102): one is `2^149`. -/
def triExact (p : Int) : Int :=
  if p ≤ 2 ^ 147 then 4 * p
  else if p ≤ 2 ^ 148 then 2 ^ 149 - 4 * (p - 2 ^ 147)
  else if p ≤ 2 ^ 148 + 2 ^ 147 then -(4 * (p - 2 ^ 148))
  else -(2 ^ 149) + 4 * (p - (2 ^ 148 + 2 ^ 147))

end Sys2Proof.Machine
end

