-- ==== Sys2Proof/Certificates/Slice0/Obligations.lean ====
section
/-! DEFINITION. The statements about the engine, each a proposition a prover may settle; OBLIGATIONS.json lists them. -/

open Sys2Proof Sys2Proof.Machine

/-- The worked command words decode to their commands (R83). -/
def Obligations.SpecWordsDecode : Prop :=
  decode 0x010000000000000000000000 = .init 0 0 ∧
  decode 0x010000001234567800010001 = .init 0x12345678 0x00010001 ∧
  decode 0x020045000000000000000040 = .cycle 69 0 0x00000000 64 ∧
  decode 0x02003C803F80000000000010 = .cycle 60 128 0x3F800000 16 ∧
  decode 0x02003CFFBF80000000000000 = .cycle 60 255 0xBF800000 0 ∧
  decode 0x030045000000000000000000 = .noteOn 69 0 0x00000000 ∧
  decode 0x040045000000000000000000 = .noteOff 69 0 0x00000000 ∧
  decode 0x050000000000000200000000 = .paramWf1 2 ∧
  decode 0x050000020000003200000000 = .paramBal 50 ∧
  decode 0x05000003000000C800000000 = .paramDet 200 ∧
  decode 0x050000040000000100000000 = .paramSync 1 ∧
  decode 0x05000006000003FF00000000 = .paramRsvA 1023 ∧
  decode 0x000000000000000000000000 = .reserved00

/-- Decoding an encoded well-formed command gives it back (R72, R73, R74, R75, R78, R80). -/
def Obligations.DecodeOfEncode : Prop :=
  ∀ i : Instr, WellFormed i = true → decode (encode i) = i

/-- Every command word decodes to a well-formed command with its fields, and a word whose ignored fields are zero is that
command's encoding (R72, R77, R78, R80, R81). -/
def Obligations.DecodeIsTotalAndWellFormed : Prop :=
  (∀ w : CmdWord, WellFormed (decode w) = true) ∧
  (∀ w : CmdWord, sameUsedFields w (encode (decode w)) = true) ∧
  (∀ w : CmdWord, ignoredFieldsZero w = true → encode (decode w) = w) ∧
  (∀ w : CmdWord, ignoredFieldsZero (encode (decode w)) = true)

/-- The table's 32 different rows are disjoint, cover all words, and decode selects by them (R80, spec/opcode_table.json). -/
def Obligations.TableRowsPartitionWords : Prop :=
  opcodeTable.length = 32 ∧ opcodeTable.Nodup ∧
  ∀ w : CmdWord, rowOf (decode w) ∈ opcodeTable ∧ (rowOf (decode w)).selects w = true ∧
    ∀ r ∈ opcodeTable, r.selects w = true → r = rowOf (decode w)

/-- Words that differ in ignored fields only behave identically (R76). -/
def Obligations.IgnoredFieldsChangeNothing : Prop :=
  ∀ (s : State) (w w' : CmdWord) (rest : List HostInput), sameUsedFields w w' = true →
    step { s with inputs := .command w :: rest } = step { s with inputs := .command w' :: rest }

/-- Each pseudo-command expands to its one command word (R82). -/
def Obligations.PseudoCommandsExpand : Prop :=
  (∀ v : Half,
    (assemble (.wf1 v) = assemble (.param 0 v) ∧ decode (assemble (.wf1 v)) = .paramWf1 v) ∧
    (assemble (.wf2 v) = assemble (.param 1 v) ∧ decode (assemble (.wf2 v)) = .paramWf2 v) ∧
    (assemble (.bal v) = assemble (.param 2 v) ∧ decode (assemble (.bal v)) = .paramBal v) ∧
    (assemble (.det v) = assemble (.param 3 v) ∧ decode (assemble (.det v)) = .paramDet v) ∧
    (assemble (.sync v) = assemble (.param 4 v) ∧ decode (assemble (.sync v)) = .paramSync v) ∧
    (assemble (.rsvA v) = assemble (.param 6 v) ∧ decode (assemble (.rsvA v)) = .paramRsvA v) ∧
    (assemble (.rsvB v) = assemble (.param 7 v) ∧ decode (assemble (.rsvB v)) = .paramRsvB v)) ∧
  (assemble .nop = 0 ∧ decode (assemble .nop) = .reserved00) ∧
  [AsmName.saw, .square, .triangle, .sine, .noise].map asmNumber = [0, 1, 2, 3, 4] ∧
  [AsmName.disabled, .enabled].map asmNumber = [0, 1]

/-- A step on an offered word is exec of the command it decodes to (R71, R14, R62). That the host's deliveries are a list, of which
a step takes one, is the model's choice: log entry 3. -/
def Obligations.StepRunsDecodedCommand : Prop :=
  ∀ (s : State) (w : CmdWord) (rest : List HostInput), s.inputs = .command w :: rest →
    step s = exec (decode w) { s with inputs := rest }

/-- With nothing offered the engine holds its state (R222, R71). That an empty list of deliveries is an idle clock is the model's
choice: log entry 3. -/
def Obligations.IdleEngineHoldsState : Prop :=
  ∀ s : State, s.inputs = [] → step s = .next s

/-- No step faults or is refused, and every command completes (R210, R211, R214, R236, R223). -/
def Obligations.EveryStepCompletes : Prop :=
  (∀ (i : Instr) (s : State), ∃ t, exec i s = .next t) ∧ (∀ s : State, ∃ t, step s = .next t)

/-- Every step keeps the invariant of the machine (R31, R50, R57, R26, R27, R236, R231). Through a reset BAL and DET hold storable
values by the model's zeros (log entry 1), and one OUT holds all transfers since reset by log entry 12: the model's choices. -/
def Obligations.StepKeepsInvariant : Prop :=
  ∀ s t : State, s.Inv → step s = .next t → t.Inv

/-- The state after reset meets the invariant (R36, R31, R26, R27, log entry 1). -/
def Obligations.ResetMeetsInvariant : Prop :=
  State.reset.Inv

/-- After reset no command is in progress and nothing is written (R36, R230). That an unwritten slot reads as no value (log entry 2)
and that nothing is offered yet (log entry 3) are the model's choices. -/
def Obligations.ResetLeavesEngineIdle : Prop :=
  State.reset.latches = none ∧ State.reset.cmdReady = true ∧ (∀ i, State.reset.outRead i = none) ∧
  State.reset.outPort = [] ∧ State.reset.inputs = []

/-- A reset input idles the engine; a word offered with it is not accepted (R230, R231, R213). -/
def Obligations.ResetInputIdlesEngine : Prop :=
  ∀ (s : State) (w : CmdWord) (rest : List HostInput),
    ∃ t, step { s with inputs := .reset :: rest } = .next t ∧
      step { s with inputs := .resetOffered w :: rest } = .next t ∧
      t.latches = none ∧ t.cmdReady = true ∧ t.out = s.out ∧ t.outPort = s.outPort ∧ t.inputs = rest ∧
      t.random = s.random

/-- A command abandoned by reset keeps the OUT writes it had made and makes no more (R231, R51). That the delivery names a number of
writes, and that a number above `frames` stands for `frames`, is the model's choice: log entry 11. -/
def Obligations.ResetDuringCycleKeepsWrittenSlots : Prop :=
  ∀ (s : State) (w : CmdWord) (k : Nat) (rest : List HostInput),
    ∃ t, step { s with inputs := .resetDuring w k :: rest } = .next t ∧ t.latches = none ∧ t.inputs = rest ∧
      (∀ note mod lfo frames, decode w = .cycle note mod lfo frames →
        (∃ u, exec (.cycle note mod lfo (BitVec.ofNat 32 (min k frames.toNat))) { s with inputs := rest } = .next u ∧
          t.out = u.out ∧ t.outPort = u.outPort) ∧
        t.outPort.length = s.outPort.length + min k frames.toNat) ∧
      ((∀ note mod lfo frames, decode w ≠ .cycle note mod lfo frames) → t.out = s.out ∧ t.outPort = s.outPort)

/-- INIT sets all seven registers: the defaults and two draws in [0,1) (R191, R194). -/
def Obligations.InitWritesDefaultsAndDraws : Prop :=
  (∀ (s : State) (platformId apiVersion : Word), exec (.init platformId apiVersion) s =
    .next { s with
      voice :=
        { wf1 := 1, wf2 := 1, sync := 0, ph1 := s.phaseDraw 0, ph2 := s.phaseDraw 1,
          bal := 0x3F000000, det := 0x3F000000 }
      random := { s.random with phase := s.random.phase.drop 2 }
      draws := { s.draws with phase := s.draws.phase + 2 } }) ∧
  (∀ (s : State) (k : Nat), inUnit (s.phaseDraw k) = true)

/-- NOTE_ON and NOTE_OFF leave the whole state unchanged (R196, R197). -/
def Obligations.NoteEventsDoNothing : Prop :=
  ∀ (s : State) (note mod : Byte) (lfo : F),
    exec (.noteOn note mod lfo) s = .next s ∧ exec (.noteOff note mod lfo) s = .next s

/-- The reserved opcodes complete and change nothing (R198). -/
def Obligations.ReservedOpcodesDoNothing : Prop :=
  ∀ (s : State) (op : Byte),
    exec (.reserved00) s = .next s ∧
    exec (.reserved06to07 op) s = .next s ∧
    exec (.reserved08to0F op) s = .next s ∧
    exec (.reserved10to1F op) s = .next s ∧
    exec (.reserved20to3F op) s = .next s ∧
    exec (.reserved40to7F op) s = .next s ∧
    exec (.reserved80toFF op) s = .next s

/-- A word with a reserved opcode is accepted and has no effect (R77). -/
def Obligations.ReservedOpcodeWordsDoNothing : Prop :=
  (∀ (s : State) (w : CmdWord) (rest : List HostInput),
    ((fieldOp w).toNat = 0x00 ∨ 0x06 ≤ (fieldOp w).toNat) →
      step { s with inputs := .command w :: rest } = .next { s with inputs := rest }) ∧
  (fieldOp 0).toNat = 0x00

/-- PARAM.WF1 stores the raw value unchanged and writes nothing else (R121). -/
def Obligations.ParamWf1StoresRawValue : Prop :=
  ∀ (s : State) (value : Half),
    exec (.paramWf1 value) s = .next { s with voice := { s.voice with wf1 := value } } ∧
    (5 ≤ value.toNat → ∀ draw p, sel draw value p = Config.wfDefaultSample)

/-- PARAM.WF2 stores the raw value unchanged and writes nothing else (R122). -/
def Obligations.ParamWf2StoresRawValue : Prop :=
  ∀ (s : State) (value : Half),
    exec (.paramWf2 value) s = .next { s with voice := { s.voice with wf2 := value } } ∧
    (5 ≤ value.toNat → ∀ draw p, sel draw value p = Config.wfDefaultSample)

/-- PARAM.SYNC stores the raw value unchanged and writes nothing else (R125). -/
def Obligations.ParamSyncStoresRawValue : Prop :=
  ∀ (s : State) (value : Half),
    exec (.paramSync value) s = .next { s with voice := { s.voice with sync := value } } ∧
    (syncEnabled value = true ↔ value = 1)

/-- PARAM.BAL stores fdiv(i2f(value), 100.0), unclamped, and writes nothing else (R123, 90_conflicts.md C1, C2). -/
def Obligations.ParamBalStoresScaledValue : Prop :=
  (∀ (s : State) (value : Half),
    exec (.paramBal value) s =
      .next { s with voice := { s.voice with bal := fdiv (i2f (value.toNat : Int)) 0x42C80000 } }) ∧
  [(0 : Half), 33, 50, 100, 200, 1023, 65535].map scaleBalance =
    [0x00000000, 0x3EA8F5C3, 0x3F000000, 0x3F800000, 0x40000000, 0x4123AE14, 0x4423D666]

/-- PARAM.DET stores fdiv(i2f(value - 100), 100.0), unclamped, and writes nothing else (R124, R129). -/
def Obligations.ParamDetStoresScaledValue : Prop :=
  (∀ (s : State) (value : Half),
    exec (.paramDet value) s =
      .next { s with voice := { s.voice with det := fdiv (i2f ((value.toNat : Int) - 100)) 0x42C80000 } }) ∧
  [(0 : Half), 67, 100, 150, 200, 1023, 65535].map scaleDetune =
    [0xBF800000, 0xBEA8F5C3, 0x00000000, 0x3F000000, 0x3F800000, 0x4113AE14, 0x44239666]

/-- The stored balance is the F value nearest to value/100, exact just for multiples of 25 (R123, R8). -/
def Obligations.StoredBalanceIsNearestQuotient : Prop :=
  ∀ value : Half, isFinite (scaleBalance value) = true ∧
    NearestEven (2 ^ 149 * (value.toNat : Int)) 100 (scaleBalance value) ∧
    (2 ^ 149 * (value.toNat : Int) = 100 * units (scaleBalance value) ↔ value.toNat % 25 = 0)

/-- The stored detune is the F value nearest to (value-100)/100 (R124, R27, R8). -/
def Obligations.StoredDetuneIsNearestQuotient : Prop :=
  ∀ value : Half, isFinite (scaleDetune value) = true ∧
    NearestEven (2 ^ 149 * ((value.toNat : Int) - 100)) 100 (scaleDetune value)

/-- In every state that meets the invariant, DET is never below -1.0 and BAL never negative (R26, R27). -/
def Obligations.ParameterRegisterRanges : Prop :=
  ∀ s : State, s.Inv → fle 0xBF800000 s.voice.det = true ∧ fle s.voice.det 0x44239666 = true ∧
    fle 0x00000000 s.voice.bal = true ∧ fle s.voice.bal 0x4423D666 = true

/-- The two reserved parameter slots store nothing, for every value (R126). -/
def Obligations.ReservedSlotsDoNothing : Prop :=
  ∀ (s : State) (value : Half), exec (.paramRsvA value) s = .next s ∧ exec (.paramRsvB value) s = .next s

/-- The PARAM rows of unrecognised indices complete and change nothing (R128). -/
def Obligations.UnrecognisedIndicesDoNothing : Prop :=
  ∀ (s : State) (index value : Half),
    exec (.paramUnrec5 value) s = .next s ∧
    exec (.paramUnrec8to15 index value) s = .next s ∧
    exec (.paramUnrec16to31 index value) s = .next s ∧
    exec (.paramUnrec32to63 index value) s = .next s ∧
    exec (.paramUnrec64to127 index value) s = .next s ∧
    exec (.paramUnrec128to255 index value) s = .next s ∧
    exec (.paramUnrec256to511 index value) s = .next s ∧
    exec (.paramUnrec512to1023 index value) s = .next s ∧
    exec (.paramUnrec1024to2047 index value) s = .next s ∧
    exec (.paramUnrec2048to4095 index value) s = .next s ∧
    exec (.paramUnrec4096to8191 index value) s = .next s ∧
    exec (.paramUnrec8192to16383 index value) s = .next s ∧
    exec (.paramUnrec16384to32767 index value) s = .next s ∧
    exec (.paramUnrec32768to65535 index value) s = .next s

/-- A PARAM word with an unrecognised index reads and writes no state (R128). -/
def Obligations.UnrecognisedIndexWordsDoNothing : Prop :=
  ∀ (s : State) (w : CmdWord) (rest : List HostInput), (fieldOp w).toNat = 0x05 →
    ((fieldA w).toNat = 5 ∨ 8 ≤ (fieldA w).toNat) →
      step { s with inputs := .command w :: rest } = .next { s with inputs := rest }

/-- Of two successive writes to one register the last one stands (R130). -/
def Obligations.LastParameterWriteWins : Prop :=
  ∀ (s t : State) (v v' : Half),
    (exec (.paramWf1 v) s = .next t → exec (.paramWf1 v') t = exec (.paramWf1 v') s) ∧
    (exec (.paramWf2 v) s = .next t → exec (.paramWf2 v') t = exec (.paramWf2 v') s) ∧
    (exec (.paramBal v) s = .next t → exec (.paramBal v') t = exec (.paramBal v') s) ∧
    (exec (.paramDet v) s = .next t → exec (.paramDet v') t = exec (.paramDet v') s) ∧
    (exec (.paramSync v) s = .next t → exec (.paramSync v') t = exec (.paramSync v') s)

/-- The triangle at its quartile boundaries and above 1 (R102, R103, R104, R105). -/
def Obligations.TriangleBoundaryValues : Prop :=
  [(0x00000000 : F), 0x3E800000, 0x3F000000, 0x3F400000].map tri = [0x00000000, 0x3F800000, 0x00000000, 0xBF800000] ∧
  [(0x3F800000 : F), 0x3F900000, 0x3FA00000, 0x3FC00000, 0x3FE00000].map tri =
    [0x00000000, 0x3F000000, 0x3F800000, 0x40000000, 0x40400000]

/-- The triangle is the exact four-segment function rounded once (R102, R104, R105, R8). -/
def Obligations.TriangleRoundsOnce : Prop :=
  ∀ p : F, fle 0x00000000 p = true → fle p 0x3FC00000 = true →
    isFinite (tri p) = true ∧ NearestEven (triExact (units p)) 1 (tri p)

/-- On a phase in [0,1) every waveform code gives a sample in [-1,1] (R100, R101, R104, R106, R109). -/
def Obligations.GeneratorsStayInSampleRange : Prop :=
  (∀ (s : State) (k : Nat) (code : Half) (p : F), inUnit p = true → inSample (sel (s.noiseDraw k) code p) = true) ∧
  (∀ (s : State) (k : Nat), inSample (s.noiseDraw k) = true)

/-- The multiplexer evaluates the generator its code names, noise being drawn for code 4 only (R108). -/
def Obligations.MultiplexerSelectsByCode : Prop :=
  ∀ (draw p : F),
    sel draw 0 p = wfSaw p ∧ sel draw 1 p = wfSquare p ∧ sel draw 2 p = tri p ∧ sel draw 3 p = wfSine p ∧ sel draw 4 p = draw ∧
    (∀ code : Half, 5 ≤ code.toNat → sel draw code p = Config.wfDefaultSample) ∧
    (∀ code : Half, noiseUse code = if code = 4 then 1 else 0) ∧
    sel draw 2 0x3EC00000 = 0x3F000000

/-- The resolver computes F1, LFO01, F2 by the sign of DET, and the two increments (R141, R142, R143, R144, R145, R161). -/
def Obligations.ResolverFollowsDetuneSign : Prop :=
  ∀ (note mod : Byte) (lfo det : F),
    (resolve note mod lfo det).f1 = noteHz note mod ∧
    (resolve note mod lfo det).lfo01 = fmul (fadd lfo 0x3F800000) 0x3F000000 ∧
    (flt 0x00000000 det = true → (resolve note mod lfo det).f2 =
      fmul (noteHz note mod) (fadd 0x3F800000 (fmul det (fmul (fadd lfo 0x3F800000) 0x3F000000)))) ∧
    (flt 0x00000000 det = false → (resolve note mod lfo det).f2 =
      fmul (noteHz note mod) (fadd 0x3F800000 (fmul (fmul 0x3F000000 det) (fmul (fadd lfo 0x3F800000) 0x3F000000)))) ∧
    (resolve note mod lfo det).w1 = fdiv (noteHz note mod) 0x473B8000 ∧
    (resolve note mod lfo det).w2 = fdiv (resolve note mod lfo det).f2 0x473B8000 ∧
    (resolve note mod lfo det).n = 0 ∧
    isFinite (noteHz note mod) = true ∧ flt 0x00000000 (noteHz note mod) = true

/-- The worked resolver table: F2 and W2 at F1 = 440.0 (R149). -/
def Obligations.ResolverWorkedExamples : Prop :=
  [((0x3F000000 : F), (0x00000000 : F)), (0x3F000000, 0x3F800000), (0x3F000000, 0x3F000000), (0x3F000000, 0xBF800000),
    (0x3F800000, 0x3F800000), (0x00000000, 0x3F800000), (0xBF000000, 0x3F800000), (0xBF800000, 0x3F800000),
    (0x3EA8F5C3, 0x00000000), (0xBEA8F5C3, 0x00000000), (0x4113AE14, 0x3F800000)].map
      (fun x => (rescaleLfo x.2, resolveF2 0x43DC0000 x.1 (rescaleLfo x.2),
        fdiv (resolveF2 0x43DC0000 x.1 (rescaleLfo x.2)) Config.sampleRate)) =
    [(0x3F000000, 0x44098000, 0x3C3BBBBC), (0x3F800000, 0x44250000, 0x3C6147AE), (0x3F400000, 0x44174000, 0x3C4E81B5),
      (0x00000000, 0x43DC0000, 0x3C162FC9), (0x3F800000, 0x445C0000, 0x3C962FC9), (0x3F800000, 0x43DC0000, 0x3C162FC9),
      (0x3F800000, 0x43A50000, 0x3BE147AE), (0x3F800000, 0x435C0000, 0x3B962FC9), (0x3F000000, 0x44002666, 0x3C2EF7AB),
      (0x3F000000, 0x43C9D99A, 0x3C09CBD8), (0x3F800000, 0x458CA999, 0x3DC00D1B)] ∧
  fdiv 0x43DC0000 Config.sampleRate = 0x3C162FC9

/-- An LFO value in [-1,1] is rescaled into [0,1], the ends onto the ends (R142, R147). -/
def Obligations.RescaledLfoStaysInUnit : Prop :=
  (∀ lfo : F, inSample lfo = true → fle 0x00000000 (rescaleLfo lfo) = true ∧ fle (rescaleLfo lfo) 0x3F800000 = true) ∧
  rescaleLfo 0xBF800000 = 0x00000000 ∧ rescaleLfo 0x00000000 = 0x3F000000 ∧ rescaleLfo 0x3F800000 = 0x3F800000

/-- With detune and LFO in [-1,1], F2 lies between half of F1 and twice F1 (R144, R145, R147). -/
def Obligations.DetunedFrequencyWithinOctave : Prop :=
  ∀ f1 det lfo : F, flt 0x00000000 f1 = true → flt f1 0x46BB8000 = true → inSample det = true → inSample lfo = true →
    fle (fmul 0x3F000000 f1) (resolveF2 f1 det (rescaleLfo lfo)) = true ∧
    fle (resolveF2 f1 det (rescaleLfo lfo)) (fmul 0x40000000 f1) = true

/-- With detune zero, or the LFO at its minimum, F2 is F1 bit for bit (R144, R145). -/
def Obligations.NoDetuneLeavesFrequency : Prop :=
  ∀ f1 det lfo : F, isFinite f1 = true →
    (isZero det = true ∧ inSample lfo = true ∨ isFinite det = true ∧ lfo = 0xBF800000) →
      resolveF2 f1 det (rescaleLfo lfo) = f1

/-- A CYCLE of one frame, in the primitives of its pseudocode (R160, R163, R164, R165, R166, R167, R168, R169, R170, R171). Outside
the caller contracts it runs by R148's arithmetic, the model's choice of log entry 9, and `ipart` outside its domain is the free
value of log entry 8. -/
def Obligations.CycleOfOneFrame : Prop :=
  ∀ (s : State) (note mod : Byte) (lfo : F),
    let l := resolve note mod lfo s.voice.det
    let s1 := sel (s.noiseDraw 0) s.voice.wf1 s.voice.ph1
    let s2 := sel (s.noiseDraw (if s.voice.wf1 = 4 then 1 else 0)) s.voice.wf2 s.voice.ph2
    let y := toFixed (fadd (fmul (fsub 0x3F800000 s.voice.bal) s1) (fmul s.voice.bal s2))
    let a1 := fadd s.voice.ph1 l.w1
    let a2 := fadd s.voice.ph2 l.w2
    ∃ t, exec (.cycle note mod lfo 1) s = .next t ∧
      t.outRead 0 = some y ∧ (∀ i, i ≠ 0 → t.outRead i = s.outRead i) ∧ t.outPort = s.outPort ++ [{ slot := 0, data := y }] ∧
      t.voice.wf1 = s.voice.wf1 ∧ t.voice.wf2 = s.voice.wf2 ∧ t.voice.sync = s.voice.sync ∧
      t.voice.bal = s.voice.bal ∧ t.voice.det = s.voice.det ∧ t.latches = none ∧ t.inputs = s.inputs ∧
      t.random.phase = s.random.phase ∧ t.random.noise =
        s.random.noise.drop ((if s.voice.wf1 = 4 then 1 else 0) + (if s.voice.wf2 = 4 then 1 else 0)) ∧
      (fle 0x3F800000 a1 = true →
        t.voice.ph1 = fsub a1 (i2f ((ipart s.draws.cast a1).toNat : Int)) ∧
        t.voice.ph2 = if s.voice.sync = 1 then t.voice.ph1 else a2) ∧
      (fle 0x3F800000 a1 = false →
        t.voice.ph1 = a1 ∧
        t.voice.ph2 = if fle 0x3F800000 a2 = true then fsub a2 (i2f ((ipart s.draws.cast a2).toNat : Int)) else a2)

/-- With SYNC = 1, a step in which oscillator 1 wraps sets PH2 to PH1, and no other SYNC value does (R168, R169). -/
def Obligations.HardSyncForcesPhase2 : Prop :=
  ∀ (s : State) (l : Latches), s.latches = some l →
    (reachesOne (fadd s.voice.ph1 l.w1) = true → s.voice.sync = 1 → (sampleStep s).voice.ph2 = (sampleStep s).voice.ph1) ∧
    (reachesOne (fadd s.voice.ph1 l.w1) = true → s.voice.sync ≠ 1 →
      (sampleStep s).voice.ph2 = fadd s.voice.ph2 l.w2) ∧
    (reachesOne (fadd s.voice.ph1 l.w1) = false → ∀ v : Half,
      (sampleStep { s with voice := { s.voice with sync := v } }).voice.ph1 = (sampleStep s).voice.ph1 ∧
      (sampleStep { s with voice := { s.voice with sync := v } }).voice.ph2 = (sampleStep s).voice.ph2)

/-- Oscillator 2 is wrapped by itself only in a step in which oscillator 1 does not wrap (R172). -/
def Obligations.Phase2WrapsOnlyAlone : Prop :=
  ∀ (s : State) (l : Latches), s.latches = some l →
    (reachesOne (fadd s.voice.ph1 l.w1) = true →
      (sampleStep s).voice.ph1 = wrapPhase s.draws.cast (fadd s.voice.ph1 l.w1) ∧
      ((sampleStep s).voice.ph2 = (sampleStep s).voice.ph1 ∧ s.voice.sync = 1 ∨
        (sampleStep s).voice.ph2 = fadd s.voice.ph2 l.w2 ∧ s.voice.sync ≠ 1)) ∧
    (reachesOne (fadd s.voice.ph1 l.w1) = false →
      (sampleStep s).voice.ph1 = fadd s.voice.ph1 l.w1 ∧
      (sampleStep s).voice.ph2 =
        if reachesOne (fadd s.voice.ph2 l.w2) = true then wrapPhase s.draws.cast (fadd s.voice.ph2 l.w2)
        else fadd s.voice.ph2 l.w2)

/-- Subtracting the integer part is exact and lands in [0,1) (R9, R167, R174). -/
def Obligations.WrapIsExact : Prop :=
  (∀ (k : Nat) (x : F), fle 0x3F800000 x = true → flt x 0x4F800000 = true →
    isFinite (wrapPhase k x) = true ∧ units (wrapPhase k x) = units x % 2 ^ 149 ∧ inUnit (wrapPhase k x) = true) ∧
  (∀ k : Nat, wrapPhase k 0x3F800000 = 0x00000000)

/-- Oscillator 1's phase stays in [0,1) through every sample step (R24, R173, R167). -/
def Obligations.Phase1StaysInUnit : Prop :=
  ∀ (k : Nat) (s : State) (l : Latches), s.latches = some l → inUnit s.voice.ph1 = true →
    fle 0x00000000 l.w1 = true → flt l.w1 0x4F000000 = true → inUnit (sampleSteps k s).voice.ph1 = true

/-- A CYCLE within the LFO contract never makes a phase negative (R25, R147, R173). Beyond NOTE_HZ_BOUND, where a phase can reach
2^32, this rests on the model's choices: the run goes on (log entry 9) and `ipart` is a free u32 (log entry 8). -/
def Obligations.PhasesNeverNegative : Prop :=
  ∀ (s : State) (note mod : Byte) (lfo : F) (frames : Word), DetuneStorable s.voice.det → inSample lfo = true →
    fle 0x00000000 s.voice.ph1 = true → fle 0x00000000 s.voice.ph2 = true →
      ∃ t, exec (.cycle note mod lfo frames) s = .next t ∧ fle 0x00000000 t.voice.ph1 = true ∧
        fle 0x00000000 t.voice.ph2 = true

/-- With W1 at most 0.5 - 2^-22, oscillator 1 never wraps in two successive sample steps (R173). -/
def Obligations.NoTwoWrapsInARow : Prop :=
  ∀ (s : State) (l : Latches), s.latches = some l → inUnit s.voice.ph1 = true → fle 0x00000000 l.w1 = true →
    fle l.w1 0x3EFFFFF8 = true → reachesOne (fadd s.voice.ph1 l.w1) = true →
      reachesOne (fadd (sampleStep s).voice.ph1 l.w1) = false

/-- With W1 at most 0.5 - 2^-22 and W2 below 1, PH2 is never 1 or more after two successive sample steps (R173, R170, R171). -/
def Obligations.UnwrappedPhase2LastsOneStep : Prop :=
  ∀ (s : State) (l : Latches), s.latches = some l → inUnit s.voice.ph1 = true →
    fle 0x00000000 s.voice.ph2 = true → flt s.voice.ph2 0x40000000 = true →
    fle 0x00000000 l.w1 = true → fle l.w1 0x3EFFFFF8 = true → fle 0x00000000 l.w2 = true → flt l.w2 0x3F800000 = true →
      flt (sampleStep s).voice.ph2 0x3F800000 = true ∨ flt (sampleStep (sampleStep s)).voice.ph2 0x3F800000 = true

/-- A CYCLE writes slots 0 to frames-1 once each, ascending, and changes only phases (R28, R51, R56, R57, R59, R162, R176, R32). -/
def Obligations.CycleWritesExactlyFrames : Prop :=
  ∀ (s : State) (note mod : Byte) (lfo : F) (frames : Word),
    ∃ (t : State) (ys : List Sample), exec (.cycle note mod lfo frames) s = .next t ∧ ys.length = frames.toNat ∧
      t.outPort = s.outPort ++ ys.zipIdx.map (fun y => { slot := BitVec.ofNat 32 y.2, data := y.1 }) ∧
      (∀ i y, ys[i]? = some y → t.outRead i = some y) ∧ (∀ i, frames.toNat ≤ i → t.outRead i = s.outRead i) ∧
      t.voice = { s.voice with ph1 := t.voice.ph1, ph2 := t.voice.ph2 } ∧ t.latches = none ∧ t.inputs = s.inputs ∧
      t.random.phase = s.random.phase ∧ t.random.noise = s.random.noise.drop
        (frames.toNat * ((if s.voice.wf1 = 4 then 1 else 0) + (if s.voice.wf2 = 4 then 1 else 0))) ∧
      t.draws.phase = s.draws.phase ∧
      t.draws.noise = s.draws.noise +
        frames.toNat * ((if s.voice.wf1 = 4 then 1 else 0) + (if s.voice.wf2 = 4 then 1 else 0))

/-- A CYCLE of no frames changes nothing (R162). -/
def Obligations.CycleOfZeroFrames : Prop :=
  ∀ (s : State) (note mod : Byte) (lfo : F), exec (.cycle note mod lfo 0) s = .next { s with latches := none }

/-- A CYCLE of a+b frames equals a CYCLE of a frames and one of b frames (R162). -/
def Obligations.CycleSplitsIntoTwo : Prop :=
  ∀ (s : State) (note mod : Byte) (lfo : F) (a b : Word), a.toNat + b.toNat < 2 ^ 32 →
    ∃ t u v, exec (.cycle note mod lfo (a + b)) s = .next t ∧ exec (.cycle note mod lfo a) s = .next u ∧
      exec (.cycle note mod lfo b) u = .next v ∧ t.voice = v.voice ∧ t.draws = v.draws ∧ t.random = v.random ∧
      t.outPort.map Transfer.data = v.outPort.map Transfer.data ∧
      (∀ j, j < b.toNat → v.outRead j = t.outRead (a.toNat + j))

/-- Which commands write which register, and that only CYCLE writes OUT (R24, R25, R28, R29, R51, R120, R176). -/
def Obligations.RegisterAndOutputWriters : Prop :=
  ∀ (i : Instr) (s t : State), exec i s = .next t →
    ((∀ p a, i ≠ .init p a) →
      ((∀ v, i ≠ .paramWf1 v) → t.voice.wf1 = s.voice.wf1) ∧
      ((∀ v, i ≠ .paramWf2 v) → t.voice.wf2 = s.voice.wf2) ∧
      ((∀ v, i ≠ .paramSync v) → t.voice.sync = s.voice.sync) ∧
      ((∀ v, i ≠ .paramBal v) → t.voice.bal = s.voice.bal) ∧
      ((∀ v, i ≠ .paramDet v) → t.voice.det = s.voice.det) ∧
      ((∀ note mod lfo frames, i ≠ .cycle note mod lfo frames) →
        t.voice.ph1 = s.voice.ph1 ∧ t.voice.ph2 = s.voice.ph2)) ∧
    ((∀ note mod lfo frames, i ≠ .cycle note mod lfo frames) →
      (∀ j, t.outRead j = s.outRead j) ∧ t.outPort = s.outPort ∧ t.latches = s.latches) ∧
    ((∀ p a, i ≠ .init p a) → t.random.phase = s.random.phase) ∧
    ((∀ note mod lfo frames, i ≠ .cycle note mod lfo frames) → t.random.noise = s.random.noise) ∧ t.inputs = s.inputs

/-- Balance 0 writes oscillator 1's sample, balance 1 oscillator 2's (R175, R164, R12). -/
def Obligations.BalanceExtremesPassOneOscillator : Prop :=
  ∀ s1 s2 : F, isFinite s1 = true → isFinite s2 = true →
    toFixed (mix 0x00000000 s1 s2) = toFixed s1 ∧ toFixed (mix 0x3F800000 s1 s2) = toFixed s2

/-- A balance in [0,1] mixes samples in [-1,1] to a sample in [-1,1] (R164). -/
def Obligations.MixStaysInSampleRange : Prop :=
  ∀ bal s1 s2 : F, fle 0x00000000 bal = true → fle bal 0x3F800000 = true → inSample s1 = true → inSample s2 = true →
    inSample (mix bal s1 s2) = true

/-- TO_FIXED is the truncated, saturated Q1.31 of every value but NaN (R12). -/
def Obligations.ToFixedTruncatesAndSaturates : Prop :=
  (∀ x : F, isFinite x = true →
    (toFixed x).toInt = max (-(2 ^ 31)) (min ((units x).tdiv (2 ^ 118)) (2 ^ 31 - 1))) ∧
  toFixed 0x7F800000 = 0x7FFFFFFF ∧ toFixed 0xFF800000 = 0x80000000 ∧
  [(0x00000000 : F), 0x80000000, 0x3F000000, 0xBF000000, 0x3F800000, 0xBF800000, 0x40000000, 0xC0400000].map toFixed =
    [0x00000000, 0x00000000, 0x40000000, 0xC0000000, 0x7FFFFFFF, 0x80000000, 0x7FFFFFFF, 0x80000000]

/-- Each operation on finite operands is the exact result rounded once: nearest, ties to even, overflow to the infinity of its
sign, a zero of the sign IEEE 754 gives (R8). -/
def Obligations.OperationsRoundToNearestEven : Prop :=
  ∀ a b : F, isFinite a = true → isFinite b = true →
    RoundsTo (units a + units b) 1 (fadd a b) ∧
    (units a + units b = 0 → fadd a b = if signBit a && signBit b then 0x80000000 else 0x00000000) ∧
    RoundsTo (units a - units b) 1 (fsub a b) ∧
    (units a - units b = 0 → fsub a b = if signBit a && !signBit b then 0x80000000 else 0x00000000) ∧
    RoundsTo (units a * units b) (2 ^ 149) (fmul a b) ∧ signBit (fmul a b) = (signBit a != signBit b) ∧
    (units b ≠ 0 →
      RoundsTo (if signBit b then -(2 ^ 149 * units a) else 2 ^ 149 * units a) (magUnits b) (fdiv a b) ∧
      signBit (fdiv a b) = (signBit a != signBit b))

/-- A NaN lfo makes PH2 NaN unless sync is enabled (R148, R8). R148 tells a model to refuse this run; that it runs is the model's
choice: log entry 9. -/
def Obligations.NaNLfoReachesPhase2 : Prop :=
  ∀ (s : State) (note mod : Byte) (lfo : F) (frames : Word), isNaN lfo = true → frames ≠ 0 → s.voice.sync ≠ 1 →
    ∃ t, exec (.cycle note mod lfo frames) s = .next t ∧ isNaN t.voice.ph2 = true

/-- Within the contracts PH1 stays in [0,1) and PH2 in [0,2) through every command, from INIT on (R173, R147, R24, R25, R191). -/
def Obligations.ContractRunsKeepPhases : Prop :=
  (∀ (s : State) (platformId apiVersion : Word),
    ∃ t, exec (.init platformId apiVersion) s = .next t ∧ t.voice.PhaseInv) ∧
  (∀ (i : Instr) (s : State), s.voice.PhaseInv → (∀ note mod lfo frames, i ≠ .cycle note mod lfo frames) →
    (∀ v, i = .paramDet v → v.toNat ≤ 200) → ∃ t, exec i s = .next t ∧ t.voice.PhaseInv) ∧
  (∀ (s : State) (l : Latches) (lfo f1 : F) (k : Nat), s.latches = some l → s.voice.PhaseInv → lfoInContract lfo = true →
    flt 0x00000000 f1 = true → l.w1 = fdiv f1 0x473B8000 →
    l.w2 = fdiv (resolveF2 f1 s.voice.det (rescaleLfo lfo)) 0x473B8000 → fle l.w1 0x3EFFFFF8 = true →
      (sampleSteps k s).voice.PhaseInv) ∧
  (∀ (s : State) (note mod : Byte) (lfo : F) (frames : Word),
    ∃ (t u : State) (l : Latches), exec (.cycle note mod lfo frames) s = .next t ∧ u.voice = s.voice ∧ u.latches = some l ∧
      l.w1 = fdiv (noteHz note mod) 0x473B8000 ∧
      l.w2 = fdiv (resolveF2 (noteHz note mod) s.voice.det (rescaleLfo lfo)) 0x473B8000 ∧
      flt 0x00000000 (noteHz note mod) = true ∧ t.voice = (sampleSteps frames.toNat u).voice)

/-- For equal |detune| the term a positive detune adds is double that of a negative one, short of subnormals (R144, R145, R146). -/
def Obligations.PositiveDetuneTermIsDouble : Prop :=
  (∀ det lfo01 : F, fle 0x21800000 det = true → fle det 0x44239666 = true →
    fle 0x21800000 lfo01 = true → fle lfo01 0x3F800000 = true →
      units (fmul det lfo01) = -(2 * units (fmul (fmul 0x3F000000 (fneg det)) lfo01))) ∧
  [(0x3F000000 : F), 0xBF000000, 0x3EA8F5C3, 0xBEA8F5C3].map (fun d => resolveF2 0x43DC0000 d (rescaleLfo 0x3F800000)) =
    [0x44250000, 0x43A50000, 0x44124CCD, 0x43B7B333] ∧
  [((0x44250000 : F), (0x43A50000 : F)), (0x44124CCD, 0x43B7B333)].all
    (fun x => decide (units x.1 - units 0x43DC0000 = 2 * (units 0x43DC0000 - units x.2))) = true

/-- The draws are what the random unit supplies for the run: any two phases in [0,1) can be INIT's, any two samples in [-1,1] the
noise of a sample step, oscillator 1's first, and no answer is used for any other code (R7, R32, R106, R192). That the answers to
come are lists in the state is the model's choice: log entry 5. -/
def Obligations.DrawsAreSuppliedForTheRun : Prop :=
  (∀ (s : State) (platformId apiVersion : Word) (p q : F) (ps : List F), s.random.phase = p :: q :: ps →
    inUnit p = true → inUnit q = true →
      ∃ t, exec (.init platformId apiVersion) s = .next t ∧ t.voice.ph1 = p ∧ t.voice.ph2 = q ∧
        t.random = { s.random with phase := ps }) ∧
  (∀ (s : State) (note mod : Byte) (lfo d e : F) (ds : List F), s.random.noise = d :: e :: ds →
    inSample d = true → inSample e = true →
      ∃ t, exec (.cycle note mod lfo 1) s = .next t ∧
        (s.voice.wf1 = 4 → s.voice.wf2 = 4 →
          t.outRead 0 = some (toFixed (mix s.voice.bal d e)) ∧ t.random = { s.random with noise := ds }) ∧
        (s.voice.wf1 = 4 → s.voice.wf2 ≠ 4 →
          t.outRead 0 = some (toFixed (mix s.voice.bal d (sel e s.voice.wf2 s.voice.ph2))) ∧
            t.random = { s.random with noise := e :: ds }) ∧
        (s.voice.wf1 ≠ 4 → s.voice.wf2 = 4 →
          t.outRead 0 = some (toFixed (mix s.voice.bal (sel d s.voice.wf1 s.voice.ph1) d)) ∧
            t.random = { s.random with noise := e :: ds }) ∧
        (s.voice.wf1 ≠ 4 → s.voice.wf2 ≠ 4 → t.random = s.random))

/-- The engine only writes OUT and never reads it: with any other OUT and any other transfers made before, every command has the
same effect on everything else and makes the same new transfers (R50, R53). -/
def Obligations.EngineNeverReadsOutput : Prop :=
  ∀ (i : Instr) (s : State) (m : Memory) (ts : List Transfer),
    ∃ (t u : State) (new : List Transfer), exec i s = .next t ∧ exec i { s with out := m, outPort := ts } = .next u ∧
      t.voice = u.voice ∧ t.latches = u.latches ∧ t.inputs = u.inputs ∧ t.random = u.random ∧ t.draws = u.draws ∧
      t.outPort = s.outPort ++ new ∧ u.outPort = ts ++ new ∧
      (∀ j, (∃ x ∈ new, x.slot.toNat = j) → t.outRead j = u.outRead j) ∧
      (∀ j, (∀ x ∈ new, x.slot.toNat ≠ j) → t.outRead j = s.outRead j ∧ u.outRead j = Memory.read m j)
end

