-- ==== Sys2Proof/Laws/Float.lean ====
section
/-! SUPPORT. What the arithmetic of `F` can do, said once: the 31-bit patterns order the magnitudes, `roundBits` picks one of
the two neighbours of the exact quotient and never crosses a representable value, and the comparisons are those of the exact
values. -/

namespace Sys2Proof.Machine

/-! ## Magnitudes -/

theorem unitsOfBits_lt_two_pow {b : Nat} (h : b < 2 ^ 23) : unitsOfBits b = b := by
  rw [unitsOfBits, if_pos h]

/-- A pattern written as exponent step and significand (the carry `q = 2^24` included) has the value `q * 2^s`. -/
theorem unitsOfBits_at (s q : Nat) (hq : q ≤ 2 ^ 24) (hs : s = 0 ∨ 2 ^ 23 ≤ q) :
    unitsOfBits (2 ^ 23 * s + q) = q * 2 ^ s := by
  by_cases hlow : q < 2 ^ 23
  · have h0 : s = 0 := by omega
    subst h0
    rw [unitsOfBits_lt_two_pow (by omega)]; simp
  · by_cases hc : q = 2 ^ 24
    · subst hc
      have h1 : (2 ^ 23 * s + 2 ^ 24) / 2 ^ 23 = s + 2 := by omega
      have h2 : (2 ^ 23 * s + 2 ^ 24) % 2 ^ 23 = 0 := by omega
      have h3 : ¬ (2 ^ 23 * s + 2 ^ 24 < 2 ^ 23) := by omega
      rw [unitsOfBits, if_neg h3, h1, h2, show s + 2 - 1 = s + 1 by omega, pow_succ]
      ring
    · have h1 : (2 ^ 23 * s + q) / 2 ^ 23 = s + 1 := by omega
      have h2 : (2 ^ 23 * s + q) % 2 ^ 23 = q - 2 ^ 23 := by omega
      have h3 : ¬ (2 ^ 23 * s + q < 2 ^ 23) := by omega
      rw [unitsOfBits, if_neg h3, h1, h2, show s + 1 - 1 = s by omega, show 2 ^ 23 + (q - 2 ^ 23) = q by omega]

/-- Every pattern is of the form of `unitsOfBits_at`, with a significand that does not carry. -/
theorem exists_step_significand (b : Nat) :
    ∃ s q, b = 2 ^ 23 * s + q ∧ q < 2 ^ 24 ∧ (s = 0 ∨ 2 ^ 23 ≤ q) := by
  by_cases h : b < 2 ^ 24
  · exact ⟨0, b, by omega, h, .inl rfl⟩
  · exact ⟨b / 2 ^ 23 - 1, b % 2 ^ 23 + 2 ^ 23, by omega, by omega, .inr (by omega)⟩

theorem unitsOfBits_lt_succ (b : Nat) : unitsOfBits b < unitsOfBits (b + 1) := by
  obtain ⟨s, q, rfl, hq, hs⟩ := exists_step_significand b
  rw [unitsOfBits_at s q (by omega) hs, add_assoc, unitsOfBits_at s (q + 1) (by omega) (by omega)]
  exact Nat.mul_lt_mul_of_pos_right (by omega) (by positivity)

theorem unitsOfBits_strictMono : StrictMono unitsOfBits := strictMono_nat_of_lt_succ unitsOfBits_lt_succ

theorem unitsOfBits_le_iff {a b : Nat} : unitsOfBits a ≤ unitsOfBits b ↔ a ≤ b :=
  unitsOfBits_strictMono.le_iff_le

theorem unitsOfBits_lt_iff {a b : Nat} : unitsOfBits a < unitsOfBits b ↔ a < b :=
  unitsOfBits_strictMono.lt_iff_lt

theorem unitsOfBits_inj {a b : Nat} : unitsOfBits a = unitsOfBits b ↔ a = b :=
  unitsOfBits_strictMono.injective.eq_iff

/-! ## The one rounding -/

/-- The rounded pattern before it is cut off at infinity. -/
def roundRaw (num den : Nat) : Nat :=
  let s := Nat.log2 (num / den) - 23
  let d := den * 2 ^ s
  2 ^ 23 * s + num / d + (if d < 2 * (num % d) ∨ (2 * (num % d) = d ∧ num / d % 2 = 1) then 1 else 0)

theorem roundBits_eq (num den : Nat) : roundBits num den = min (roundRaw num den) 0x7F800000 := rfl

/-- What `roundRaw` can answer: the lower neighbour `b` of the exact quotient or the next pattern, by the distances to the
two, which are `r` and `d - r` on a grid of step `d`. -/
theorem roundRaw_spec (num den : Nat) (hden : 0 < den) :
    ∃ b r d, unitsOfBits b * den + r = num ∧ unitsOfBits (b + 1) * den = unitsOfBits b * den + d ∧ r < d ∧
      ((roundRaw num den = b ∧ 2 * r ≤ d) ∨ (roundRaw num den = b + 1 ∧ d ≤ 2 * r)) ∧
      (2 * r = d → roundRaw num den % 2 = 0) := by
  set n := num / den with hn
  set s := Nat.log2 n - 23 with hsdef
  set d := den * 2 ^ s with hd
  have hdpos : 0 < d := by positivity
  have hqdef : num / d = n / 2 ^ s := by rw [hd, ← Nat.div_div_eq_div_mul]
  have hq : num / d < 2 ^ 24 := by
    rw [hqdef, Nat.div_lt_iff_lt_mul (by positivity), ← pow_add]
    by_cases h0 : n = 0
    · rw [h0]; positivity
    · exact lt_of_lt_of_le Nat.lt_log2_self (Nat.pow_le_pow_right (by norm_num) (by omega))
  have hs : s = 0 ∨ 2 ^ 23 ≤ num / d := by
    by_cases h : s = 0
    · exact .inl h
    · right
      have h0 : n ≠ 0 := by
        intro h0; rw [h0] at hsdef; simp at hsdef; exact h hsdef
      rw [hqdef, Nat.le_div_iff_mul_le (by positivity), ← pow_add]
      calc 2 ^ (23 + s) ≤ 2 ^ Nat.log2 n := Nat.pow_le_pow_right (by norm_num) (by omega)
        _ ≤ n := Nat.log2_self_le h0
  have hlow : unitsOfBits (2 ^ 23 * s + num / d) = num / d * 2 ^ s := unitsOfBits_at s _ (by omega) hs
  have hhigh : unitsOfBits (2 ^ 23 * s + num / d + 1) = (num / d + 1) * 2 ^ s := by
    rw [add_assoc]; exact unitsOfBits_at s _ (by omega) (by omega)
  have hr : num % d < d := Nat.mod_lt _ hdpos
  have hdm : d * (num / d) + num % d = num := Nat.div_add_mod num d
  refine ⟨2 ^ 23 * s + num / d, num % d, d, ?_, ?_, hr, ?_, ?_⟩
  · rw [hlow]
    calc num / d * 2 ^ s * den + num % d = d * (num / d) + num % d := by rw [hd]; ring
      _ = num := hdm
  · rw [hlow, hhigh, hd]; ring
  · unfold roundRaw
    simp only [← hn, ← hsdef, ← hd]
    split <;> omega
  · intro htie
    unfold roundRaw
    simp only [← hn, ← hsdef, ← hd]
    split <;> omega

/-- Rounding never goes above a representable value that the exact quotient does not exceed. -/
theorem roundRaw_le {num den b : Nat} (hden : 0 < den) (h : num ≤ unitsOfBits b * den) : roundRaw num den ≤ b := by
  obtain ⟨c, r, d, hnum, hnext, hr, hcase, -⟩ := roundRaw_spec num den hden
  have hcb : c ≤ b := unitsOfBits_le_iff.mp (Nat.le_of_mul_le_mul_right (by omega) hden)
  rcases Nat.eq_or_lt_of_le hcb with rfl | hlt
  · omega
  · omega

/-- Rounding never goes below a representable value that does not exceed the exact quotient. -/
theorem le_roundRaw {num den b : Nat} (hden : 0 < den) (h : unitsOfBits b * den ≤ num) : b ≤ roundRaw num den := by
  obtain ⟨c, r, d, hnum, hnext, hr, hcase, -⟩ := roundRaw_spec num den hden
  have hcb : b < c + 1 := unitsOfBits_lt_iff.mp (Nat.lt_of_mul_lt_mul_right (a := den) (by omega))
  omega

/-- A representable quotient is returned as it is. -/
theorem roundRaw_exact {num den b : Nat} (hden : 0 < den) (h : num = unitsOfBits b * den) : roundRaw num den = b :=
  le_antisymm (roundRaw_le hden h.le) (le_roundRaw hden h.ge)

theorem roundBits_le {num den b : Nat} (hden : 0 < den) (h : num ≤ unitsOfBits b * den) : roundBits num den ≤ b := by
  rw [roundBits_eq]; exact le_trans (min_le_left _ _) (roundRaw_le hden h)

theorem le_roundBits {num den b : Nat} (hden : 0 < den) (hb : b ≤ 0x7F800000) (h : unitsOfBits b * den ≤ num) :
    b ≤ roundBits num den := by
  rw [roundBits_eq]; exact le_min (le_roundRaw hden h) hb

theorem roundBits_exact {num den b : Nat} (hden : 0 < den) (hb : b ≤ 0x7F800000) (h : num = unitsOfBits b * den) :
    roundBits num den = b := by
  rw [roundBits_eq, roundRaw_exact hden h]; omega

theorem roundBits_le_inf (num den : Nat) : roundBits num den ≤ 0x7F800000 := by
  rw [roundBits_eq]; exact min_le_right _ _

/-- The rounded value is at least as near to the exact quotient as any other representable magnitude. -/
theorem roundRaw_nearest (num den b : Nat) (hden : 0 < den) :
    |(num : Int) - unitsOfBits (roundRaw num den) * den| ≤ |(num : Int) - unitsOfBits b * den| := by
  obtain ⟨c, r, d, hnum, hnext, hr, hcase, -⟩ := roundRaw_spec num den hden
  have hn : (num : Int) = unitsOfBits c * den + r := by exact_mod_cast hnum.symm
  have hs : (unitsOfBits (c + 1) : Int) * den = unitsOfBits c * den + d := by exact_mod_cast hnext
  have hother : (unitsOfBits b : Int) * den ≤ unitsOfBits c * den ∨ (unitsOfBits c : Int) * den + d ≤ unitsOfBits b * den := by
    rcases Nat.lt_or_ge c b with h | h
    · right; rw [← hs]
      exact_mod_cast Nat.mul_le_mul_right den (unitsOfBits_le_iff.mpr h)
    · left; exact_mod_cast Nat.mul_le_mul_right den (unitsOfBits_le_iff.mpr h)
  have hr' : (r : Int) < d := by exact_mod_cast hr
  rcases hcase with ⟨he, h2⟩ | ⟨he, h2⟩ <;> rw [he]
  · rw [hn]
    rcases hother with h | h
    · rw [abs_of_nonneg (by omega), abs_of_nonneg (by omega)]; omega
    · rw [abs_of_nonneg (by omega), abs_of_nonpos (by omega)]; omega
  · rw [hn, hs]
    rcases hother with h | h
    · rw [abs_of_nonpos (by omega), abs_of_nonneg (by omega)]; omega
    · rw [abs_of_nonpos (by omega), abs_of_nonpos (by omega)]; omega

/-! ## Patterns -/

theorem magBits_lt (x : F) : magBits x < 2 ^ 31 := Nat.mod_lt _ (by norm_num)

theorem signBit_eq (x : F) : signBit x = decide (2 ^ 31 ≤ x.toNat) := by
  simp [signBit, BitVec.msb_eq_decide]

theorem toNat_packF (neg : Bool) {b : Nat} (hb : b < 2 ^ 31) :
    (packF neg b).toNat = if neg then 2 ^ 31 + b else b := by
  cases neg <;> simp [packF, BitVec.toNat_ofNat] <;> omega

theorem magBits_packF (neg : Bool) {b : Nat} (hb : b < 2 ^ 31) : magBits (packF neg b) = b := by
  rw [magBits, toNat_packF neg hb]; cases neg <;> simp <;> omega

theorem signBit_packF (neg : Bool) {b : Nat} (hb : b < 2 ^ 31) : signBit (packF neg b) = neg := by
  rw [signBit_eq, toNat_packF neg hb]; cases neg <;> simp; omega

theorem packF_signBit_magBits (x : F) : packF (signBit x) (magBits x) = x := by
  apply BitVec.eq_of_toNat_eq
  rw [toNat_packF _ (magBits_lt x), signBit_eq, magBits]
  have := x.isLt
  by_cases h : 2 ^ 31 ≤ x.toNat
  · rw [decide_eq_true h, if_pos rfl]; omega
  · rw [decide_eq_false h, if_neg (by simp)]; omega

theorem units_packF (neg : Bool) {b : Nat} (hb : b < 2 ^ 31) :
    units (packF neg b) = if neg then -(unitsOfBits b : Int) else unitsOfBits b := by
  rw [units, magUnits, magBits_packF neg hb, signBit_packF neg hb]

theorem orderKey_packF (neg : Bool) {b : Nat} (hb : b < 2 ^ 31) :
    orderKey (packF neg b) = if neg then -(b : Int) else b := by
  rw [orderKey, magBits_packF neg hb, signBit_packF neg hb]

theorem isNaN_packF (neg : Bool) {b : Nat} (hb : b ≤ 0x7F800000) : isNaN (packF neg b) = false := by
  rw [isNaN, magBits_packF neg (by omega)]; simp; omega

theorem isFinite_packF (neg : Bool) {b : Nat} (hb : b < 2 ^ 31) :
    isFinite (packF neg b) = decide (b < 0x7F800000) := by
  rw [isFinite, magBits_packF neg hb]

theorem isNaN_eq_false_of_isFinite {x : F} (h : isFinite x = true) : isNaN x = false := by
  simp [isFinite, isNaN] at *; omega

theorem isInf_eq_false_of_isFinite {x : F} (h : isFinite x = true) : isInf x = false := by
  simp [isFinite, isInf] at *; omega

theorem units_fneg (x : F) : units (fneg x) = -units x := by
  rw [fneg, units_packF _ (magBits_lt x), units, magUnits]
  cases signBit x <;> simp

theorem isFinite_fneg (x : F) : isFinite (fneg x) = isFinite x := by
  rw [fneg, isFinite_packF _ (magBits_lt x), isFinite]

/-! ## Comparisons are those of the exact values -/

theorem units_le_units_iff {a b : F} : units a ≤ units b ↔ orderKey a ≤ orderKey b := by
  have hz : unitsOfBits 0 = 0 := by simp [unitsOfBits]
  have hp : ∀ n, unitsOfBits n = 0 ↔ n = 0 := fun n => by rw [← hz, unitsOfBits_inj, hz]
  have hm : unitsOfBits (magBits a) ≤ unitsOfBits (magBits b) ↔ magBits a ≤ magBits b := unitsOfBits_le_iff
  have hm' : unitsOfBits (magBits b) ≤ unitsOfBits (magBits a) ↔ magBits b ≤ magBits a := unitsOfBits_le_iff
  have ha := hp (magBits a)
  have hb := hp (magBits b)
  simp only [units, orderKey, magUnits]
  cases signBit a <;> cases signBit b <;> simp only [Bool.false_eq_true, if_false, if_true] <;> omega

theorem fle_iff_units {a b : F} (ha : isFinite a = true) (hb : isFinite b = true) :
    fle a b = true ↔ units a ≤ units b := by
  simp [fle, isNaN_eq_false_of_isFinite ha, isNaN_eq_false_of_isFinite hb, units_le_units_iff]

theorem flt_iff_units {a b : F} (ha : isFinite a = true) (hb : isFinite b = true) :
    flt a b = true ↔ units a < units b := by
  rw [← not_le, units_le_units_iff]
  simp [flt, isNaN_eq_false_of_isFinite ha, isNaN_eq_false_of_isFinite hb]

/-! ## The operations on finite values -/

theorem fmul_finite {a b : F} (ha : isFinite a = true) (hb : isFinite b = true) :
    fmul a b = packF (signBit a != signBit b) (roundBits (magUnits a * magUnits b) (2 ^ 149)) := by
  simp [fmul, isNaN_eq_false_of_isFinite ha, isNaN_eq_false_of_isFinite hb, isInf_eq_false_of_isFinite ha,
    isInf_eq_false_of_isFinite hb]

theorem fdiv_finite {a b : F} (ha : isFinite a = true) (hb : isFinite b = true) (hz : isZero b = false) :
    fdiv a b = packF (signBit a != signBit b) (roundBits (2 ^ 149 * magUnits a) (magUnits b)) := by
  simp [fdiv, isNaN_eq_false_of_isFinite ha, isNaN_eq_false_of_isFinite hb, isInf_eq_false_of_isFinite ha,
    isInf_eq_false_of_isFinite hb, hz]

theorem sumWith_finite {nan a b : F} (ha : isFinite a = true) (hb : isFinite b = true) :
    sumWith nan a b = if units a + units b = 0 then packF (signBit a && signBit b) 0
      else packF (decide (units a + units b < 0)) (roundBits (units a + units b).natAbs 1) := by
  simp [sumWith, isNaN_eq_false_of_isFinite ha, isNaN_eq_false_of_isFinite hb, isInf_eq_false_of_isFinite ha,
    isInf_eq_false_of_isFinite hb]

/-- What an operation returns where it has no other result is a NaN (R8). -/
theorem isNaN_quietNaN (op : FOp) (a b : F) : isNaN (quietNaN op a b) = true := by
  have h : (Config.nanChoice op a b).toNat % 2 ^ 22 < 2 ^ 22 := Nat.mod_lt _ (by norm_num)
  rw [isNaN, quietNaN, magBits_packF _ (by omega)]
  exact decide_eq_true (by omega)

end Sys2Proof.Machine
end

