-- ==== Sys2Proof/Laws/FloatOrder.lean ====
section
/-! SUPPORT. The operations of `F` against the values of `F`: where the exact result does not exceed a finite value, neither
does the rounded one, on either side; where the exact result is a value of `F`, the operation returns it. These three facts,
one triple for each operation, say all that a bound or an exactness proof needs of the rounding. -/

namespace Sys2Proof.Machine

theorem isNaN_rounded (neg : Bool) (num den : Nat) : isNaN (packF neg (roundBits num den)) = false :=
  isNaN_packF neg (roundBits_le_inf num den)

theorem magBits_lt_of_isFinite {y : F} (hy : isFinite y = true) : magBits y < 0x7F800000 := by
  simpa [isFinite] using hy

theorem unitsOfBits_zero : unitsOfBits 0 = 0 := unitsOfBits_lt_two_pow (by norm_num)

/-- The signed exact quotient at or below a finite `y`: the rounded value is at or below `y`. -/
theorem fle_rounded_right {neg : Bool} {num den : Nat} {y : F} (hden : 0 < den) (hy : isFinite y = true)
    (h : (if neg then -(num : Int) else num) ≤ units y * den) : fle (packF neg (roundBits num den)) y = true := by
  have hlt : roundBits num den < 2 ^ 31 := lt_of_le_of_lt (roundBits_le_inf _ _) (by norm_num)
  have hyb := magBits_lt_of_isFinite hy
  simp only [fle, isNaN_rounded, isNaN_eq_false_of_isFinite hy, Bool.not_false, Bool.true_and, decide_eq_true_eq]
  rw [orderKey_packF neg hlt]
  unfold units at h
  unfold orderKey
  cases neg <;> cases hs : signBit y <;> simp only [hs, Bool.false_eq_true, if_false, if_true] at h ⊢
  · exact_mod_cast roundBits_le hden (by exact_mod_cast h)
  · have h0 : (num : Int) + magUnits y * den ≤ 0 := by linarith
    have h1 : num + magUnits y * den = 0 := by exact_mod_cast le_antisymm h0 (by positivity)
    have h2 : magUnits y = 0 := by
      rcases Nat.mul_eq_zero.mp (show magUnits y * den = 0 by omega) with h2 | h2
      · exact h2
      · omega
    have h3 : magBits y = 0 := unitsOfBits_inj.mp (by rw [unitsOfBits_zero]; exact h2)
    have h4 : roundBits num den ≤ 0 := roundBits_le hden (by omega)
    omega
  · omega
  · have h5 : magUnits y * den ≤ num := by
      have : (magUnits y : Int) * den ≤ num := by linarith
      exact_mod_cast this
    have := le_roundBits hden hyb.le h5
    omega

/-- The signed exact quotient at or above a finite `y`: the rounded value is at or above `y`. -/
theorem fle_rounded_left {neg : Bool} {num den : Nat} {y : F} (hden : 0 < den) (hy : isFinite y = true)
    (h : units y * den ≤ (if neg then -(num : Int) else num)) : fle y (packF neg (roundBits num den)) = true := by
  have hlt : roundBits num den < 2 ^ 31 := lt_of_le_of_lt (roundBits_le_inf _ _) (by norm_num)
  have hyb := magBits_lt_of_isFinite hy
  simp only [fle, isNaN_rounded, isNaN_eq_false_of_isFinite hy, Bool.not_false, Bool.true_and, decide_eq_true_eq]
  rw [orderKey_packF neg hlt]
  unfold units at h
  unfold orderKey
  cases neg <;> cases hs : signBit y <;> simp only [hs, Bool.false_eq_true, if_false, if_true] at h ⊢
  · exact_mod_cast le_roundBits hden hyb.le (by exact_mod_cast h)
  · omega
  · have h0 : (num : Int) + magUnits y * den ≤ 0 := by linarith
    have h1 : num + magUnits y * den = 0 := by exact_mod_cast le_antisymm h0 (by positivity)
    have h2 : magUnits y = 0 := by
      rcases Nat.mul_eq_zero.mp (show magUnits y * den = 0 by omega) with h2 | h2
      · exact h2
      · omega
    have h3 : magBits y = 0 := unitsOfBits_inj.mp (by rw [unitsOfBits_zero]; exact h2)
    have h4 : roundBits num den ≤ 0 := roundBits_le hden (by omega)
    omega
  · have h5 : num ≤ magUnits y * den := by
      have : (num : Int) ≤ magUnits y * den := by linarith
      exact_mod_cast this
    have := roundBits_le hden h5
    omega

/-- A value between two finite values is finite. -/
theorem isFinite_of_between {a x b : F} (ha : isFinite a = true) (hb : isFinite b = true) (h1 : fle a x = true)
    (h2 : fle x b = true) : isFinite x = true := by
  have := magBits_lt_of_isFinite ha
  have := magBits_lt_of_isFinite hb
  have h1 : orderKey a ≤ orderKey x := by simp [fle] at h1; exact h1.2
  have h2 : orderKey x ≤ orderKey b := by simp [fle] at h2; exact h2.2
  simp only [orderKey] at h1 h2
  rw [isFinite, decide_eq_true_eq]
  split at h1 <;> split at h1 <;> split at h2 <;> simp_all <;> omega

/-- Two values each at or below the other, one of them finite, have the same exact value. -/
theorem units_eq_of_fle {x y : F} (hy : isFinite y = true) (h1 : fle x y = true) (h2 : fle y x = true) :
    isFinite x = true ∧ units x = units y := by
  have hx := isFinite_of_between hy hy h2 h1
  exact ⟨hx, le_antisymm ((fle_iff_units hx hy).mp h1) ((fle_iff_units hy hx).mp h2)⟩

/-! ## Sums -/

theorem fle_packF_zero_right {neg : Bool} {y : F} (hy : isFinite y = true) (h : 0 ≤ units y) :
    fle (packF neg 0) y = true := by
  have h0 : isFinite (packF neg 0) = true := by rw [isFinite_packF neg (by norm_num)]; rfl
  rw [fle_iff_units h0 hy, units_packF neg (by norm_num), unitsOfBits_zero]
  cases neg <;> simpa using h

theorem fle_packF_zero_left {neg : Bool} {y : F} (hy : isFinite y = true) (h : units y ≤ 0) :
    fle y (packF neg 0) = true := by
  have h0 : isFinite (packF neg 0) = true := by rw [isFinite_packF neg (by norm_num)]; rfl
  rw [fle_iff_units hy h0, units_packF neg (by norm_num), unitsOfBits_zero]
  cases neg <;> simpa using h

theorem sign_natAbs (k : Int) : (if decide (k < 0) then -(k.natAbs : Int) else k.natAbs) = k := by
  by_cases h : k < 0
  · rw [decide_eq_true h, if_pos rfl]; omega
  · rw [decide_eq_false h, if_neg (by simp)]; omega

theorem fle_sumWith_right {nan a b y : F} (ha : isFinite a = true) (hb : isFinite b = true) (hy : isFinite y = true)
    (h : units a + units b ≤ units y) : fle (sumWith nan a b) y = true := by
  rw [sumWith_finite ha hb]
  split
  · exact fle_packF_zero_right hy (by omega)
  · exact fle_rounded_right one_pos hy (by rw [sign_natAbs]; simpa using h)

theorem fle_sumWith_left {nan a b y : F} (ha : isFinite a = true) (hb : isFinite b = true) (hy : isFinite y = true)
    (h : units y ≤ units a + units b) : fle y (sumWith nan a b) = true := by
  rw [sumWith_finite ha hb]
  split
  · exact fle_packF_zero_left hy (by omega)
  · exact fle_rounded_left one_pos hy (by rw [sign_natAbs]; simpa using h)

theorem units_sumWith {nan a b y : F} (ha : isFinite a = true) (hb : isFinite b = true) (hy : isFinite y = true)
    (h : units a + units b = units y) :
    isFinite (sumWith nan a b) = true ∧ units (sumWith nan a b) = units y :=
  units_eq_of_fle hy (fle_sumWith_right ha hb hy h.le) (fle_sumWith_left ha hb hy h.ge)

theorem fle_fadd_right {a b y : F} (ha : isFinite a = true) (hb : isFinite b = true) (hy : isFinite y = true)
    (h : units a + units b ≤ units y) : fle (fadd a b) y = true := fle_sumWith_right ha hb hy h

theorem fle_fadd_left {a b y : F} (ha : isFinite a = true) (hb : isFinite b = true) (hy : isFinite y = true)
    (h : units y ≤ units a + units b) : fle y (fadd a b) = true := fle_sumWith_left ha hb hy h

theorem units_fadd {a b y : F} (ha : isFinite a = true) (hb : isFinite b = true) (hy : isFinite y = true)
    (h : units a + units b = units y) : isFinite (fadd a b) = true ∧ units (fadd a b) = units y :=
  units_sumWith ha hb hy h

theorem fle_fsub_right {a b y : F} (ha : isFinite a = true) (hb : isFinite b = true) (hy : isFinite y = true)
    (h : units a - units b ≤ units y) : fle (fsub a b) y = true :=
  fle_sumWith_right ha (by rw [isFinite_fneg, hb]) hy (by rw [units_fneg]; omega)

theorem fle_fsub_left {a b y : F} (ha : isFinite a = true) (hb : isFinite b = true) (hy : isFinite y = true)
    (h : units y ≤ units a - units b) : fle y (fsub a b) = true :=
  fle_sumWith_left ha (by rw [isFinite_fneg, hb]) hy (by rw [units_fneg]; omega)

theorem units_fsub {a b y : F} (ha : isFinite a = true) (hb : isFinite b = true) (hy : isFinite y = true)
    (h : units a - units b = units y) : isFinite (fsub a b) = true ∧ units (fsub a b) = units y :=
  units_sumWith ha (by rw [isFinite_fneg, hb]) hy (by rw [units_fneg]; omega)

/-! ## Products and quotients -/

theorem sign_mul (a b : F) :
    (if signBit a != signBit b then -((magUnits a * magUnits b : Nat) : Int) else (magUnits a * magUnits b : Nat))
      = units a * units b := by
  simp only [units]
  cases signBit a <;> cases signBit b <;> simp

theorem fle_fmul_right {a b y : F} (ha : isFinite a = true) (hb : isFinite b = true) (hy : isFinite y = true)
    (h : units a * units b ≤ units y * 2 ^ 149) : fle (fmul a b) y = true := by
  rw [fmul_finite ha hb]
  exact fle_rounded_right (by positivity) hy (by rw [sign_mul]; exact_mod_cast h)

theorem fle_fmul_left {a b y : F} (ha : isFinite a = true) (hb : isFinite b = true) (hy : isFinite y = true)
    (h : units y * 2 ^ 149 ≤ units a * units b) : fle y (fmul a b) = true := by
  rw [fmul_finite ha hb]
  exact fle_rounded_left (by positivity) hy (by rw [sign_mul]; exact_mod_cast h)

theorem units_fmul {a b y : F} (ha : isFinite a = true) (hb : isFinite b = true) (hy : isFinite y = true)
    (h : units a * units b = units y * 2 ^ 149) : isFinite (fmul a b) = true ∧ units (fmul a b) = units y :=
  units_eq_of_fle hy (fle_fmul_right ha hb hy h.le) (fle_fmul_left ha hb hy h.ge)

theorem magUnits_of_pos {b : F} (h : 0 < units b) : signBit b = false ∧ (magUnits b : Int) = units b := by
  unfold units at h ⊢
  cases hs : signBit b
  · simp
  · rw [hs, if_pos rfl] at h; omega

theorem isZero_of_pos {b : F} (h : 0 < units b) : isZero b = false := by
  simp only [isZero, decide_eq_false_iff_not]
  intro h0
  have := (magUnits_of_pos h).2
  rw [magUnits, h0, unitsOfBits_zero] at this
  simp at this; omega

theorem sign_div {b : F} (a : F) (h : 0 < units b) :
    (if signBit a != signBit b then -((2 ^ 149 * magUnits a : Nat) : Int) else (2 ^ 149 * magUnits a : Nat))
      = units a * 2 ^ 149 := by
  rw [(magUnits_of_pos h).1]
  simp only [units]
  cases signBit a <;> simp [mul_comm]

theorem fle_fdiv_right {a b y : F} (ha : isFinite a = true) (hb : isFinite b = true) (hp : 0 < units b)
    (hy : isFinite y = true) (h : units a * 2 ^ 149 ≤ units y * units b) : fle (fdiv a b) y = true := by
  have hm := (magUnits_of_pos hp).2
  rw [fdiv_finite ha hb (isZero_of_pos hp)]
  exact fle_rounded_right (by omega) hy (by rw [sign_div a hp, hm]; exact h)

theorem fle_fdiv_left {a b y : F} (ha : isFinite a = true) (hb : isFinite b = true) (hp : 0 < units b)
    (hy : isFinite y = true) (h : units y * units b ≤ units a * 2 ^ 149) : fle y (fdiv a b) = true := by
  have hm := (magUnits_of_pos hp).2
  rw [fdiv_finite ha hb (isZero_of_pos hp)]
  exact fle_rounded_left (by omega) hy (by rw [sign_div a hp, hm]; exact h)

theorem units_fdiv {a b y : F} (ha : isFinite a = true) (hb : isFinite b = true) (hp : 0 < units b)
    (hy : isFinite y = true) (h : units a * 2 ^ 149 = units y * units b) :
    isFinite (fdiv a b) = true ∧ units (fdiv a b) = units y :=
  units_eq_of_fle hy (fle_fdiv_right ha hb hp hy h.le) (fle_fdiv_left ha hb hp hy h.ge)

/-! ## Conversions -/

theorem units_i2f {k : Int} {y : F} (hy : isFinite y = true) (h : k * 2 ^ 149 = units y) :
    isFinite (i2f k) = true ∧ units (i2f k) = units y := by
  have hs : (if decide (k < 0) then -((2 ^ 149 * k.natAbs : Nat) : Int) else (2 ^ 149 * k.natAbs : Nat)) = units y := by
    have := sign_natAbs k
    rw [← h]
    split at this <;> rename_i hk
    · rw [if_pos hk, Nat.cast_mul, ← mul_neg, this, mul_comm]; rfl
    · rw [if_neg hk, Nat.cast_mul, this, mul_comm]; rfl
  exact units_eq_of_fle hy (fle_rounded_right one_pos hy (by rw [hs]; simp)) (fle_rounded_left one_pos hy (by rw [hs]; simp))

/-- Inside its domain `ipart` is the truncated value and uses no free value (R9). -/
theorem ipart_of_defined {k : Nat} {x : F} (h : ipartDefined x = true) :
    (ipart k x).toNat = magUnits x / 2 ^ 149 ∧ castUse x = 0 := by
  have hm : magUnits x < 2 ^ 181 := by simp [ipartDefined] at h; exact h.2
  refine ⟨?_, by simp [castUse, h]⟩
  rw [ipart, if_pos h, BitVec.toNat_ofNat]
  exact Nat.mod_eq_of_lt (by rw [Nat.div_lt_iff_lt_mul (by positivity), ← pow_add]; exact hm)

end Sys2Proof.Machine
end

