-- ==== Sys2Proof/Laws/Contracts.lean ====
section
/-! SUPPORT. What each open function and draw is known to answer: its contract, and nothing else. -/

namespace Sys2Proof.Machine

/-- `NOTE_HZ` is finite and positive on every pair (42_pitch_detune R141). -/
theorem noteHz_spec (note mod : Byte) : isFinite (noteHz note mod) = true ∧ flt 0x00000000 (noteHz note mod) = true := by
  unfold noteHz
  simp only []
  split
  · simp_all
  · exact ⟨by decide, by decide⟩

/-- A library generator on a phase in [0,1) gives a sample (40_waveform R101). -/
theorem inSample_boundOnUnit {p : F} (r : F) (hp : inUnit p = true) : inSample (boundOnUnit p r) = true := by
  unfold boundOnUnit
  split
  · decide
  · simp_all

/-- A draw lies in its range, whatever was supplied (10_state R32). -/
theorem drawIn_spec {inRange : F → Bool} (h0 : inRange 0x00000000 = true) (answer : Option F) (raw : F) :
    inRange (drawIn inRange answer raw) = true := by
  have hf : inRange (if inRange raw then raw else 0x00000000) = true := by split <;> assumption
  cases answer with
  | none => exact hf
  | some r => simp only [drawIn]; split <;> assumption

/-- A supplied answer in range is the draw. -/
theorem drawIn_some {inRange : F → Bool} {r : F} (hr : inRange r = true) (raw : F) : drawIn inRange (some r) raw = r := by
  simp [drawIn, hr]

/-- Every draw of `RAND_PHASE()` lies in [0,1) (44_lifecycle R192). -/
theorem inUnit_randPhase (answer : Option F) (n : Nat) : inUnit (randPhase answer n) = true := drawIn_spec (by decide) answer _

/-- Every draw of `NOISE()` is a sample (40_waveform R106). -/
theorem inSample_noise (answer : Option F) (n : Nat) : inSample (noise answer n) = true := drawIn_spec (by decide) answer _

/-- The increment of a finite frequency that is not negative is finite and not negative (43_cycle R161). -/
theorem increment_spec {f : F} (hf : isFinite f = true) (hpos : 0 ≤ units f) :
    isFinite (fdiv f Config.sampleRate) = true ∧ 0 ≤ units (fdiv f Config.sampleRate) := by
  have h0 : units 0x00000000 = 0 := by decide
  have hr : isFinite Config.sampleRate = true := by decide
  have hu : units Config.sampleRate = 48000 * 2 ^ 149 := by decide
  have hmax : units f ≤ units 0x7F7FFFFF := by
    rw [units_le_units_iff, show orderKey 0x7F7FFFFF = 0x7F7FFFFF by decide]
    have := magBits_lt_of_isFinite hf
    unfold orderKey
    split <;> omega
  have hm : (0 : Int) ≤ units 0x7F7FFFFF := by decide
  have lo : fle 0x00000000 (fdiv f Config.sampleRate) = true :=
    fle_fdiv_left hf hr (by rw [hu]; positivity) (by decide) (by rw [h0, zero_mul]; positivity)
  have hi : fle (fdiv f Config.sampleRate) 0x7F7FFFFF = true := by
    refine fle_fdiv_right hf hr (by rw [hu]; positivity) (by decide) ?_
    rw [hu, ← mul_assoc]
    exact mul_le_mul_of_nonneg_right (by linarith) (by positivity)
  have hw := isFinite_of_between (by decide) (by decide) lo hi
  exact ⟨hw, by rw [fle_iff_units (by decide) hw, h0] at lo; exact lo⟩

/-- `NOTE_HZ` as an exact value. -/
theorem units_noteHz_pos (note mod : Byte) : 0 < units (noteHz note mod) := by
  obtain ⟨hf, hp⟩ := noteHz_spec note mod
  rwa [flt_iff_units (by decide) hf, show units 0x00000000 = 0 by decide] at hp

/-- `W1` is finite and not negative, whatever `NOTE_HZ` is (43_cycle R161). -/
theorem resolve_w1_spec (note mod : Byte) (lfo det : F) :
    isFinite (resolve note mod lfo det).w1 = true ∧ 0 ≤ units (resolve note mod lfo det).w1 :=
  increment_spec (noteHz_spec note mod).1 (units_noteHz_pos note mod).le

end Sys2Proof.Machine
end

