-- ==== Sys2Proof/Laws/State.lean ====
section
/-! SUPPORT. Each update of the state, field by field: what it writes and what it leaves, true by unfolding once here. -/

namespace Sys2Proof.Machine

@[simp] theorem outWrite_voice (i : Word) (v : Sample) (s : State) : (outWrite i v s).voice = s.voice := rfl
@[simp] theorem outWrite_latches (i : Word) (v : Sample) (s : State) : (outWrite i v s).latches = s.latches := rfl
@[simp] theorem outWrite_out (i : Word) (v : Sample) (s : State) : (outWrite i v s).out = Memory.write s.out i.toNat v := rfl
@[simp] theorem outWrite_outPort (i : Word) (v : Sample) (s : State) : (outWrite i v s).outPort = s.outPort ++ [{ slot := i, data := v }] := rfl
@[simp] theorem outWrite_inputs (i : Word) (v : Sample) (s : State) : (outWrite i v s).inputs = s.inputs := rfl
@[simp] theorem outWrite_draws (i : Word) (v : Sample) (s : State) : (outWrite i v s).draws = s.draws := rfl
@[simp] theorem outWrite_random (i : Word) (v : Sample) (s : State) : (outWrite i v s).random = s.random := rfl

@[simp] theorem setWf1_voice (v : Half) (s : State) : (setWf1 v s).voice = { s.voice with wf1 := v } := rfl
@[simp] theorem setWf1_latches (v : Half) (s : State) : (setWf1 v s).latches = s.latches := rfl
@[simp] theorem setWf1_out (v : Half) (s : State) : (setWf1 v s).out = s.out := rfl
@[simp] theorem setWf1_outPort (v : Half) (s : State) : (setWf1 v s).outPort = s.outPort := rfl
@[simp] theorem setWf1_inputs (v : Half) (s : State) : (setWf1 v s).inputs = s.inputs := rfl
@[simp] theorem setWf1_draws (v : Half) (s : State) : (setWf1 v s).draws = s.draws := rfl
@[simp] theorem setWf1_random (v : Half) (s : State) : (setWf1 v s).random = s.random := rfl

@[simp] theorem setWf2_voice (v : Half) (s : State) : (setWf2 v s).voice = { s.voice with wf2 := v } := rfl
@[simp] theorem setWf2_latches (v : Half) (s : State) : (setWf2 v s).latches = s.latches := rfl
@[simp] theorem setWf2_out (v : Half) (s : State) : (setWf2 v s).out = s.out := rfl
@[simp] theorem setWf2_outPort (v : Half) (s : State) : (setWf2 v s).outPort = s.outPort := rfl
@[simp] theorem setWf2_inputs (v : Half) (s : State) : (setWf2 v s).inputs = s.inputs := rfl
@[simp] theorem setWf2_draws (v : Half) (s : State) : (setWf2 v s).draws = s.draws := rfl
@[simp] theorem setWf2_random (v : Half) (s : State) : (setWf2 v s).random = s.random := rfl

@[simp] theorem setSync_voice (v : Half) (s : State) : (setSync v s).voice = { s.voice with sync := v } := rfl
@[simp] theorem setSync_latches (v : Half) (s : State) : (setSync v s).latches = s.latches := rfl
@[simp] theorem setSync_out (v : Half) (s : State) : (setSync v s).out = s.out := rfl
@[simp] theorem setSync_outPort (v : Half) (s : State) : (setSync v s).outPort = s.outPort := rfl
@[simp] theorem setSync_inputs (v : Half) (s : State) : (setSync v s).inputs = s.inputs := rfl
@[simp] theorem setSync_draws (v : Half) (s : State) : (setSync v s).draws = s.draws := rfl
@[simp] theorem setSync_random (v : Half) (s : State) : (setSync v s).random = s.random := rfl

@[simp] theorem setBal_voice (v : F) (s : State) : (setBal v s).voice = { s.voice with bal := v } := rfl
@[simp] theorem setBal_latches (v : F) (s : State) : (setBal v s).latches = s.latches := rfl
@[simp] theorem setBal_out (v : F) (s : State) : (setBal v s).out = s.out := rfl
@[simp] theorem setBal_outPort (v : F) (s : State) : (setBal v s).outPort = s.outPort := rfl
@[simp] theorem setBal_inputs (v : F) (s : State) : (setBal v s).inputs = s.inputs := rfl
@[simp] theorem setBal_draws (v : F) (s : State) : (setBal v s).draws = s.draws := rfl
@[simp] theorem setBal_random (v : F) (s : State) : (setBal v s).random = s.random := rfl

@[simp] theorem setDet_voice (v : F) (s : State) : (setDet v s).voice = { s.voice with det := v } := rfl
@[simp] theorem setDet_latches (v : F) (s : State) : (setDet v s).latches = s.latches := rfl
@[simp] theorem setDet_out (v : F) (s : State) : (setDet v s).out = s.out := rfl
@[simp] theorem setDet_outPort (v : F) (s : State) : (setDet v s).outPort = s.outPort := rfl
@[simp] theorem setDet_inputs (v : F) (s : State) : (setDet v s).inputs = s.inputs := rfl
@[simp] theorem setDet_draws (v : F) (s : State) : (setDet v s).draws = s.draws := rfl
@[simp] theorem setDet_random (v : F) (s : State) : (setDet v s).random = s.random := rfl

@[simp] theorem setPhases_voice (p q : F) (s : State) : (setPhases p q s).voice = { s.voice with ph1 := p, ph2 := q } := rfl
@[simp] theorem setPhases_latches (p q : F) (s : State) : (setPhases p q s).latches = s.latches := rfl
@[simp] theorem setPhases_out (p q : F) (s : State) : (setPhases p q s).out = s.out := rfl
@[simp] theorem setPhases_outPort (p q : F) (s : State) : (setPhases p q s).outPort = s.outPort := rfl
@[simp] theorem setPhases_inputs (p q : F) (s : State) : (setPhases p q s).inputs = s.inputs := rfl
@[simp] theorem setPhases_draws (p q : F) (s : State) : (setPhases p q s).draws = s.draws := rfl
@[simp] theorem setPhases_random (p q : F) (s : State) : (setPhases p q s).random = s.random := rfl

@[simp] theorem setLatches_voice (l : Latches) (s : State) : (setLatches l s).voice = s.voice := rfl
@[simp] theorem setLatches_latches (l : Latches) (s : State) : (setLatches l s).latches = some l := rfl
@[simp] theorem setLatches_out (l : Latches) (s : State) : (setLatches l s).out = s.out := rfl
@[simp] theorem setLatches_outPort (l : Latches) (s : State) : (setLatches l s).outPort = s.outPort := rfl
@[simp] theorem setLatches_inputs (l : Latches) (s : State) : (setLatches l s).inputs = s.inputs := rfl
@[simp] theorem setLatches_draws (l : Latches) (s : State) : (setLatches l s).draws = s.draws := rfl
@[simp] theorem setLatches_random (l : Latches) (s : State) : (setLatches l s).random = s.random := rfl

@[simp] theorem usePhaseDraws_voice (n : Nat) (s : State) : (usePhaseDraws n s).voice = s.voice := rfl
@[simp] theorem usePhaseDraws_latches (n : Nat) (s : State) : (usePhaseDraws n s).latches = s.latches := rfl
@[simp] theorem usePhaseDraws_out (n : Nat) (s : State) : (usePhaseDraws n s).out = s.out := rfl
@[simp] theorem usePhaseDraws_outPort (n : Nat) (s : State) : (usePhaseDraws n s).outPort = s.outPort := rfl
@[simp] theorem usePhaseDraws_inputs (n : Nat) (s : State) : (usePhaseDraws n s).inputs = s.inputs := rfl
@[simp] theorem usePhaseDraws_draws (n : Nat) (s : State) : (usePhaseDraws n s).draws = { s.draws with phase := s.draws.phase + n } := rfl
@[simp] theorem usePhaseDraws_random (n : Nat) (s : State) : (usePhaseDraws n s).random = { s.random with phase := s.random.phase.drop n } := rfl

@[simp] theorem useNoiseDraws_voice (n : Nat) (s : State) : (useNoiseDraws n s).voice = s.voice := rfl
@[simp] theorem useNoiseDraws_latches (n : Nat) (s : State) : (useNoiseDraws n s).latches = s.latches := rfl
@[simp] theorem useNoiseDraws_out (n : Nat) (s : State) : (useNoiseDraws n s).out = s.out := rfl
@[simp] theorem useNoiseDraws_outPort (n : Nat) (s : State) : (useNoiseDraws n s).outPort = s.outPort := rfl
@[simp] theorem useNoiseDraws_inputs (n : Nat) (s : State) : (useNoiseDraws n s).inputs = s.inputs := rfl
@[simp] theorem useNoiseDraws_draws (n : Nat) (s : State) : (useNoiseDraws n s).draws = { s.draws with noise := s.draws.noise + n } := rfl
@[simp] theorem useNoiseDraws_random (n : Nat) (s : State) : (useNoiseDraws n s).random = { s.random with noise := s.random.noise.drop n } := rfl

@[simp] theorem useCasts_voice (n : Nat) (s : State) : (useCasts n s).voice = s.voice := rfl
@[simp] theorem useCasts_latches (n : Nat) (s : State) : (useCasts n s).latches = s.latches := rfl
@[simp] theorem useCasts_out (n : Nat) (s : State) : (useCasts n s).out = s.out := rfl
@[simp] theorem useCasts_outPort (n : Nat) (s : State) : (useCasts n s).outPort = s.outPort := rfl
@[simp] theorem useCasts_inputs (n : Nat) (s : State) : (useCasts n s).inputs = s.inputs := rfl
@[simp] theorem useCasts_draws (n : Nat) (s : State) : (useCasts n s).draws = { s.draws with cast := s.draws.cast + n } := rfl
@[simp] theorem useCasts_random (n : Nat) (s : State) : (useCasts n s).random = s.random := rfl

@[simp] theorem retire_voice (s : State) : (retire s).voice = s.voice := rfl
@[simp] theorem retire_latches (s : State) : (retire s).latches = none := rfl
@[simp] theorem retire_out (s : State) : (retire s).out = s.out := rfl
@[simp] theorem retire_outPort (s : State) : (retire s).outPort = s.outPort := rfl
@[simp] theorem retire_inputs (s : State) : (retire s).inputs = s.inputs := rfl
@[simp] theorem retire_draws (s : State) : (retire s).draws = s.draws := rfl
@[simp] theorem retire_random (s : State) : (retire s).random = s.random := rfl

@[simp] theorem hardwareReset_voice (s : State) : (hardwareReset s).voice = Voice.afterReset := rfl
@[simp] theorem hardwareReset_latches (s : State) : (hardwareReset s).latches = none := rfl
@[simp] theorem hardwareReset_out (s : State) : (hardwareReset s).out = s.out := rfl
@[simp] theorem hardwareReset_outPort (s : State) : (hardwareReset s).outPort = s.outPort := rfl
@[simp] theorem hardwareReset_inputs (s : State) : (hardwareReset s).inputs = s.inputs := rfl
@[simp] theorem hardwareReset_draws (s : State) : (hardwareReset s).draws = s.draws := rfl
@[simp] theorem hardwareReset_random (s : State) : (hardwareReset s).random = s.random := rfl

@[simp] theorem takeInput_voice (s : State) : (takeInput s).voice = s.voice := rfl
@[simp] theorem takeInput_latches (s : State) : (takeInput s).latches = s.latches := rfl
@[simp] theorem takeInput_out (s : State) : (takeInput s).out = s.out := rfl
@[simp] theorem takeInput_outPort (s : State) : (takeInput s).outPort = s.outPort := rfl
@[simp] theorem takeInput_inputs (s : State) : (takeInput s).inputs = s.inputs.tail := rfl
@[simp] theorem takeInput_draws (s : State) : (takeInput s).draws = s.draws := rfl
@[simp] theorem takeInput_random (s : State) : (takeInput s).random = s.random := rfl

/-! ## The draws still to come -/

/-- After `n` draws the next is the one that was `n` away. -/
@[simp] theorem usePhaseDraws_phaseDraw (n k : Nat) (s : State) : (usePhaseDraws n s).phaseDraw k = s.phaseDraw (n + k) := by
  simp [State.phaseDraw, Nat.add_assoc]

/-- After `n` draws the next is the one that was `n` away. -/
@[simp] theorem useNoiseDraws_noiseDraw (n k : Nat) (s : State) : (useNoiseDraws n s).noiseDraw k = s.noiseDraw (n + k) := by
  simp [State.noiseDraw, Nat.add_assoc]

end Sys2Proof.Machine
end

