-- ==== Sys2Proof/Laws/Memory.lean ====
section
/-! SUPPORT. OUT: a read after a write, and the canonical form that every write keeps. -/

namespace Sys2Proof.Machine

/-- A slot reads as what was last written to it. -/
@[simp] theorem Memory.read_write_same (m : Memory) (i : Nat) (v : Sample) : Memory.read (Memory.write m i v) i = some v := by
  induction m with
  | nil => simp [Memory.write, Memory.read]
  | cons c m ih =>
    obtain ⟨j, u⟩ := c
    simp only [Memory.write]
    split
    · simp [Memory.read]
    · split
      · simp [Memory.read]
      · rename_i h1 h2
        simp [Memory.read, h2, ih]

/-- A write leaves every other slot as it was. -/
theorem Memory.read_write_other (m : Memory) {i k : Nat} (v : Sample) (h : k ≠ i) :
    Memory.read (Memory.write m i v) k = Memory.read m k := by
  induction m with
  | nil => simp [Memory.write, Memory.read, h]
  | cons c m ih =>
    obtain ⟨j, u⟩ := c
    simp only [Memory.write]
    split
    · simp [Memory.read, h]
    · split
      · rename_i h1 h2
        subst h2
        simp [Memory.read, h]
      · simp [Memory.read, ih]

theorem Memory.wfFrom_write {m : Memory} {lo i : Nat} (v : Sample) (hm : Memory.wfFrom lo m = true) (hlo : lo ≤ i)
    (hi : i < 2 ^ 32) : Memory.wfFrom lo (Memory.write m i v) = true := by
  induction m generalizing lo with
  | nil => simp [Memory.write, Memory.wfFrom, hlo]; omega
  | cons c m ih =>
    obtain ⟨j, u⟩ := c
    simp only [Memory.wfFrom, Bool.and_eq_true, decide_eq_true_eq] at hm
    simp only [Memory.write]
    split
    · simp only [Memory.wfFrom, Bool.and_eq_true, decide_eq_true_eq]
      exact ⟨⟨hlo, hi⟩, ⟨by omega, hm.1.2⟩, hm.2⟩
    · split
      · rename_i h1 h2
        subst h2
        simp only [Memory.wfFrom, Bool.and_eq_true, decide_eq_true_eq]
        exact ⟨⟨hlo, hi⟩, hm.2⟩
      · simp only [Memory.wfFrom, Bool.and_eq_true, decide_eq_true_eq]
        exact ⟨hm.1, ih hm.2 (by omega)⟩

/-- Every memory operation keeps the canonical form. -/
theorem Memory.wf_write {m : Memory} {i : Nat} (v : Sample) (hm : Memory.wf m = true) (hi : i < 2 ^ 32) :
    Memory.wf (Memory.write m i v) = true := Memory.wfFrom_write v hm (Nat.zero_le i) hi

theorem outWrite_wf {i : Word} {v : Sample} {s : State} (h : Memory.wf s.out = true) :
    Memory.wf (outWrite i v s).out = true := Memory.wf_write v h i.isLt

/-- All that `outWrite` does: its slot holds the sample, every other slot is as before, one transfer is appended. -/
theorem outWrite_spec (i : Word) (v : Sample) (s : State) :
    (outWrite i v s).outRead i.toNat = some v ∧
      (∀ k, k ≠ i.toNat → (outWrite i v s).outRead k = s.outRead k) ∧
      (outWrite i v s).outPort = s.outPort ++ [{ slot := i, data := v }] ∧
      (outWrite i v s).voice = s.voice ∧ (outWrite i v s).latches = s.latches ∧
      (outWrite i v s).inputs = s.inputs ∧ (outWrite i v s).draws = s.draws :=
  ⟨Memory.read_write_same s.out _ v, fun _ hk => Memory.read_write_other s.out v hk, rfl, rfl, rfl, rfl, rfl⟩

/-- OUT is in canonical form after reset. -/
theorem reset_out_wf : Memory.wf State.reset.out = true := rfl

end Sys2Proof.Machine
end

