-- ==== Sys2Proof/Laws/Cycle.lean ====
section
/-! SUPPORT. The sample loop: what one sample step does, once, and the induction over the loop, once. -/

namespace Sys2Proof.Machine

/-! ## The wraparound policy -/

/-- All that step 6 can do (43_cycle R167 to R172): oscillator 1 wraps, and sync decides `PH2`; or it does not, and `PH2`
wraps by itself if it has reached 1. -/
theorem wrapPolicy_cases (sync : Half) (k : Nat) (a1 a2 : F) :
    (reachesOne a1 = true ∧ sync = 1 ∧ wrapPolicy sync k a1 a2 = ⟨wrapPhase k a1, wrapPhase k a1, castUse a1⟩) ∨
    (reachesOne a1 = true ∧ sync ≠ 1 ∧ wrapPolicy sync k a1 a2 = ⟨wrapPhase k a1, a2, castUse a1⟩) ∨
    (reachesOne a1 = false ∧ reachesOne a2 = true ∧ wrapPolicy sync k a1 a2 = ⟨a1, wrapPhase k a2, castUse a2⟩) ∨
    (reachesOne a1 = false ∧ reachesOne a2 = false ∧ wrapPolicy sync k a1 a2 = ⟨a1, a2, 0⟩) := by
  unfold wrapPolicy syncEnabled
  by_cases h1 : reachesOne a1 = true <;> by_cases h2 : reachesOne a2 = true <;> by_cases h3 : sync = 1 <;>
    simp_all

/-! ## One sample step -/

theorem sampleStep_of_latches {s : State} {l : Latches} (h : s.latches = some l) : sampleStep s = sampleStepWith l s := by
  simp [sampleStep, h]

section
variable (l : Latches) (s : State)

@[simp] theorem sampleStepWith_latches : (sampleStepWith l s).latches = some { l with n := l.n + 1 } := rfl

@[simp] theorem sampleStepWith_inputs : (sampleStepWith l s).inputs = s.inputs := rfl

@[simp] theorem sampleStepWith_out :
    (sampleStepWith l s).out = Memory.write s.out l.n.toNat (sampleOut s.voice s.noiseDraw) := rfl

@[simp] theorem sampleStepWith_outPort :
    (sampleStepWith l s).outPort = s.outPort ++ [{ slot := l.n, data := sampleOut s.voice s.noiseDraw }] := rfl

/-- The Voice State after a sample step: the two phases and nothing else (R160, R176). -/
@[simp] theorem sampleStepWith_voice :
    (sampleStepWith l s).voice =
      { s.voice with
        ph1 := (wrapPolicy s.voice.sync s.draws.cast (fadd s.voice.ph1 l.w1) (fadd s.voice.ph2 l.w2)).ph1
        ph2 := (wrapPolicy s.voice.sync s.draws.cast (fadd s.voice.ph1 l.w1) (fadd s.voice.ph2 l.w2)).ph2 } := rfl

@[simp] theorem sampleStepWith_random :
    (sampleStepWith l s).random =
      { s.random with noise := s.random.noise.drop (noiseUse s.voice.wf1 + noiseUse s.voice.wf2) } := rfl

@[simp] theorem sampleStepWith_draws :
    (sampleStepWith l s).draws =
      { phase := s.draws.phase
        noise := s.draws.noise + (noiseUse s.voice.wf1 + noiseUse s.voice.wf2)
        cast := s.draws.cast +
          (wrapPolicy s.voice.sync s.draws.cast (fadd s.voice.ph1 l.w1) (fadd s.voice.ph2 l.w2)).casts } := rfl

end

/-! ## The loop -/

theorem sampleSteps_add (a b : Nat) (s : State) : sampleSteps (a + b) s = sampleSteps b (sampleSteps a s) := by
  induction a generalizing s with
  | zero => simp [sampleSteps]
  | succ a ih => rw [Nat.succ_add]; exact ih (sampleStep s)

/-- What holds before the loop and is kept by every sample step holds after the loop. -/
theorem sampleSteps_induct {P : State → Prop} (hstep : ∀ s, P s → P (sampleStep s)) {s : State} (h : P s) (k : Nat) :
    P (sampleSteps k s) := by
  induction k generalizing s with
  | zero => exact h
  | succ k ih => exact ih (hstep s h)

/-- The same for a property that may speak of the latches of the CYCLE in progress, whose `W1`, `W2` no step changes. -/
theorem sampleSteps_induct_latches {P : Latches → State → Prop} {w1 w2 : F}
    (hstep : ∀ l s, s.latches = some l → l.w1 = w1 → l.w2 = w2 → P l s →
      P { l with n := l.n + 1 } (sampleStepWith l s))
    {l : Latches} {s : State} (hl : s.latches = some l) (h1 : l.w1 = w1) (h2 : l.w2 = w2) (h : P l s) (k : Nat) :
    ∃ l', (sampleSteps k s).latches = some l' ∧ l'.w1 = w1 ∧ l'.w2 = w2 ∧ P l' (sampleSteps k s) := by
  induction k generalizing l s with
  | zero => exact ⟨l, hl, h1, h2, h⟩
  | succ k ih =>
    rw [sampleSteps, sampleStep_of_latches hl]
    exact ih (sampleStepWith_latches l s) h1 h2 (hstep l s hl h1 h2 h)

/-- `N` counts the sample steps made (R162). -/
theorem sampleSteps_latches {s : State} {l : Latches} (hl : s.latches = some l) (k : Nat) :
    (sampleSteps k s).latches = some { l with n := l.n + BitVec.ofNat 32 k } := by
  induction k generalizing s l with
  | zero => simp [sampleSteps, hl]
  | succ k ih =>
    rw [sampleSteps, sampleStep_of_latches hl, ih (sampleStepWith_latches l s)]
    congr 2
    apply BitVec.eq_of_toNat_eq
    have h1 : (1 : Word).toNat = 1 := rfl
    simp only [BitVec.toNat_add, BitVec.toNat_ofNat, h1]
    omega

/-- The loop with its last step apart. -/
theorem sampleSteps_succ_last (k : Nat) (s : State) : sampleSteps (k + 1) s = sampleStep (sampleSteps k s) := by
  rw [sampleSteps_add]; rfl

/-! ## The output port -/

/-- One more transfer: its slot now holds its data, every other slot what it held. -/
theorem lastWritten_append (ts : List Transfer) (t : Transfer) (i : Nat) :
    lastWritten (ts ++ [t]) i = if t.slot.toNat = i then some t.data else lastWritten ts i := by
  induction ts with
  | nil => simp [lastWritten]
  | cons u ts ih =>
    simp only [List.cons_append, lastWritten, ih]
    by_cases h : t.slot.toNat = i <;> simp [h]

end Sys2Proof.Machine
end

