-- ==== Sys2Proof/Laws/Encoding.lean ====
section
/-! SUPPORT. The fields of a packed command word are what was packed, and the words are told apart by their fields. -/

namespace Sys2Proof

section
variable (op rsv : Byte) (a : Half) (b c : Word)

@[simp] theorem toNat_packWord :
    (packWord op rsv a b c).toNat =
      (((op.toNat * 2 ^ 8 + rsv.toNat) * 2 ^ 16 + a.toNat) * 2 ^ 32 + b.toNat) * 2 ^ 32 + c.toNat := by
  have h1 := rsv.isLt
  have h2 := a.isLt
  have h3 := b.isLt
  have h4 := c.isLt
  simp only [packWord, BitVec.toNat_append]
  rw [← Nat.shiftLeft_add_eq_or_of_lt h1, ← Nat.shiftLeft_add_eq_or_of_lt h2, ← Nat.shiftLeft_add_eq_or_of_lt h3,
    ← Nat.shiftLeft_add_eq_or_of_lt h4]
  simp only [Nat.shiftLeft_eq]

@[simp] theorem fieldOp_packWord : fieldOp (packWord op rsv a b c) = op := by
  apply BitVec.eq_of_toNat_eq
  have := op.isLt; have := rsv.isLt; have := a.isLt; have := b.isLt; have := c.isLt
  rw [fieldOp, BitVec.extractLsb'_toNat, toNat_packWord, Nat.shiftRight_eq_div_pow]
  omega

@[simp] theorem fieldRsv_packWord : fieldRsv (packWord op rsv a b c) = rsv := by
  apply BitVec.eq_of_toNat_eq
  have := op.isLt; have := rsv.isLt; have := a.isLt; have := b.isLt; have := c.isLt
  rw [fieldRsv, BitVec.extractLsb'_toNat, toNat_packWord, Nat.shiftRight_eq_div_pow]
  omega

@[simp] theorem fieldA_packWord : fieldA (packWord op rsv a b c) = a := by
  apply BitVec.eq_of_toNat_eq
  have := op.isLt; have := rsv.isLt; have := a.isLt; have := b.isLt; have := c.isLt
  rw [fieldA, BitVec.extractLsb'_toNat, toNat_packWord, Nat.shiftRight_eq_div_pow]
  omega

@[simp] theorem fieldB_packWord : fieldB (packWord op rsv a b c) = b := by
  apply BitVec.eq_of_toNat_eq
  have := op.isLt; have := rsv.isLt; have := a.isLt; have := b.isLt; have := c.isLt
  rw [fieldB, BitVec.extractLsb'_toNat, toNat_packWord, Nat.shiftRight_eq_div_pow]
  omega

@[simp] theorem fieldC_packWord : fieldC (packWord op rsv a b c) = c := by
  apply BitVec.eq_of_toNat_eq
  have := op.isLt; have := rsv.isLt; have := a.isLt; have := b.isLt; have := c.isLt
  rw [fieldC, BitVec.extractLsb'_toNat, toNat_packWord, Nat.shiftRight_eq_div_pow]
  omega

end

@[simp] theorem noteOf_append (note mod : Byte) : noteOf (note ++ mod : BitVec 16) = note := by
  apply BitVec.eq_of_toNat_eq
  have := note.isLt; have h := mod.isLt
  rw [noteOf, BitVec.extractLsb'_toNat, BitVec.toNat_append, ← Nat.shiftLeft_add_eq_or_of_lt h, Nat.shiftLeft_eq,
    Nat.shiftRight_eq_div_pow]
  omega

@[simp] theorem modOf_append (note mod : Byte) : modOf (note ++ mod : BitVec 16) = mod := by
  apply BitVec.eq_of_toNat_eq
  have := note.isLt; have h := mod.isLt
  rw [modOf, BitVec.extractLsb'_toNat, BitVec.toNat_append, ← Nat.shiftLeft_add_eq_or_of_lt h, Nat.shiftLeft_eq,
    Nat.shiftRight_eq_div_pow]
  omega

@[simp] theorem valueOf_append (hi value : Half) : valueOf (hi ++ value : BitVec 32) = value := by
  apply BitVec.eq_of_toNat_eq
  have := hi.isLt; have h := value.isLt
  rw [valueOf, BitVec.extractLsb'_toNat, BitVec.toNat_append, ← Nat.shiftLeft_add_eq_or_of_lt h, Nat.shiftLeft_eq,
    Nat.shiftRight_eq_div_pow]
  omega

/-! ## Decoding a packed word -/

/-- `op` selects the format, and the format the fields (30_encoding R73 to R75). -/
theorem decode_packWord (op rsv : Byte) (a : Half) (b c : Word) :
    decode (packWord op rsv a b c) =
      if op.toNat = 0x01 then .init b c
      else if op.toNat = 0x02 then .cycle (noteOf a) (modOf a) b c
      else if op.toNat = 0x03 then .noteOn (noteOf a) (modOf a) b
      else if op.toNat = 0x04 then .noteOff (noteOf a) (modOf a) b
      else if op.toNat = 0x05 then decodeParam a (valueOf b)
      else decodeReserved op := by
  simp only [decode, fieldOp_packWord, fieldA_packWord, fieldB_packWord, fieldC_packWord]

/-- A PARAM word decodes by its index alone (R78). -/
theorem decode_encodeParam (index value : Half) : decode (encodeParam index value) = decodeParam index value := by
  rw [encodeParam, decode_packWord, valueOf_append]; rfl

/-- A word with an opcode no entry point uses decodes to a reserved row (R77). -/
theorem decode_reserved {w : CmdWord} (h : (fieldOp w).toNat = 0x00 ∨ 0x06 ≤ (fieldOp w).toNat) :
    decode w = decodeReserved (fieldOp w) := by
  simp only [decode]
  rw [if_neg (by omega), if_neg (by omega), if_neg (by omega), if_neg (by omega), if_neg (by omega)]

end Sys2Proof
end

