-- ==== Sys2Proof/Laws/PerInstr.lean ====
section
/-! SUPPORT. Per-instruction families: a statement about a command as syntax, and one lemma for each constructor. -/

namespace Sys2Proof.Laws

/-- The opcode of each row (30_encoding R74); a reserved row carries its own. -/
def opcodeOf : Instr → Byte
  | .init _ _ => 0x01
  | .cycle _ _ _ _ => 0x02
  | .noteOn _ _ _ => 0x03
  | .noteOff _ _ _ => 0x04
  | .paramWf1 _ => 0x05
  | .paramWf2 _ => 0x05
  | .paramBal _ => 0x05
  | .paramDet _ => 0x05
  | .paramSync _ => 0x05
  | .paramUnrec5 _ => 0x05
  | .paramRsvA _ => 0x05
  | .paramRsvB _ => 0x05
  | .paramUnrec8to15 _ _ => 0x05
  | .paramUnrec16to31 _ _ => 0x05
  | .paramUnrec32to63 _ _ => 0x05
  | .paramUnrec64to127 _ _ => 0x05
  | .paramUnrec128to255 _ _ => 0x05
  | .paramUnrec256to511 _ _ => 0x05
  | .paramUnrec512to1023 _ _ => 0x05
  | .paramUnrec1024to2047 _ _ => 0x05
  | .paramUnrec2048to4095 _ _ => 0x05
  | .paramUnrec4096to8191 _ _ => 0x05
  | .paramUnrec8192to16383 _ _ => 0x05
  | .paramUnrec16384to32767 _ _ => 0x05
  | .paramUnrec32768to65535 _ _ => 0x05
  | .reserved00 => 0x00
  | .reserved06to07 op => op
  | .reserved08to0F op => op
  | .reserved10to1F op => op
  | .reserved20to3F op => op
  | .reserved40to7F op => op
  | .reserved80toFF op => op

/-- The PARAM index of a PARAM row (R78). -/
def indexOf : Instr → Option Half
  | .init _ _ => none
  | .cycle _ _ _ _ => none
  | .noteOn _ _ _ => none
  | .noteOff _ _ _ => none
  | .paramWf1 _ => some 0
  | .paramWf2 _ => some 1
  | .paramBal _ => some 2
  | .paramDet _ => some 3
  | .paramSync _ => some 4
  | .paramUnrec5 _ => some 5
  | .paramRsvA _ => some 6
  | .paramRsvB _ => some 7
  | .paramUnrec8to15 index _ => some index
  | .paramUnrec16to31 index _ => some index
  | .paramUnrec32to63 index _ => some index
  | .paramUnrec64to127 index _ => some index
  | .paramUnrec128to255 index _ => some index
  | .paramUnrec256to511 index _ => some index
  | .paramUnrec512to1023 index _ => some index
  | .paramUnrec1024to2047 index _ => some index
  | .paramUnrec2048to4095 index _ => some index
  | .paramUnrec4096to8191 index _ => some index
  | .paramUnrec8192to16383 index _ => some index
  | .paramUnrec16384to32767 index _ => some index
  | .paramUnrec32768to65535 index _ => some index
  | .reserved00 => none
  | .reserved06to07 _ => none
  | .reserved08to0F _ => none
  | .reserved10to1F _ => none
  | .reserved20to3F _ => none
  | .reserved40to7F _ => none
  | .reserved80toFF _ => none

/-- Bits 95:88 of a command's word are its opcode (R72, R74). -/
def OpcodeField.Statement (i : Instr) : Prop :=
  WellFormed i = true → fieldOp (encode i) = opcodeOf i

/-- Bits 79:64 of a PARAM command's word are its index (R73, R78). -/
def IndexField.Statement (i : Instr) : Prop :=
  WellFormed i = true → ∀ k, indexOf i = some k → fieldA (encode i) = k

theorem OpcodeField.init (platformId : Word) (apiVersion : Word) : OpcodeField.Statement (.init platformId apiVersion) := fun _ => fieldOp_packWord _ _ _ _ _

theorem OpcodeField.cycle (note : Byte) (mod : Byte) (lfo : F) (frames : Word) : OpcodeField.Statement (.cycle note mod lfo frames) := fun _ => fieldOp_packWord _ _ _ _ _

theorem OpcodeField.noteOn (note : Byte) (mod : Byte) (lfo : F) : OpcodeField.Statement (.noteOn note mod lfo) := fun _ => fieldOp_packWord _ _ _ _ _

theorem OpcodeField.noteOff (note : Byte) (mod : Byte) (lfo : F) : OpcodeField.Statement (.noteOff note mod lfo) := fun _ => fieldOp_packWord _ _ _ _ _

theorem OpcodeField.paramWf1 (value : Half) : OpcodeField.Statement (.paramWf1 value) := fun _ => fieldOp_packWord _ _ _ _ _

theorem OpcodeField.paramWf2 (value : Half) : OpcodeField.Statement (.paramWf2 value) := fun _ => fieldOp_packWord _ _ _ _ _

theorem OpcodeField.paramBal (value : Half) : OpcodeField.Statement (.paramBal value) := fun _ => fieldOp_packWord _ _ _ _ _

theorem OpcodeField.paramDet (value : Half) : OpcodeField.Statement (.paramDet value) := fun _ => fieldOp_packWord _ _ _ _ _

theorem OpcodeField.paramSync (value : Half) : OpcodeField.Statement (.paramSync value) := fun _ => fieldOp_packWord _ _ _ _ _

theorem OpcodeField.paramUnrec5 (value : Half) : OpcodeField.Statement (.paramUnrec5 value) := fun _ => fieldOp_packWord _ _ _ _ _

theorem OpcodeField.paramRsvA (value : Half) : OpcodeField.Statement (.paramRsvA value) := fun _ => fieldOp_packWord _ _ _ _ _

theorem OpcodeField.paramRsvB (value : Half) : OpcodeField.Statement (.paramRsvB value) := fun _ => fieldOp_packWord _ _ _ _ _

theorem OpcodeField.paramUnrec8to15 (index : Half) (value : Half) : OpcodeField.Statement (.paramUnrec8to15 index value) := fun _ => fieldOp_packWord _ _ _ _ _

theorem OpcodeField.paramUnrec16to31 (index : Half) (value : Half) : OpcodeField.Statement (.paramUnrec16to31 index value) := fun _ => fieldOp_packWord _ _ _ _ _

theorem OpcodeField.paramUnrec32to63 (index : Half) (value : Half) : OpcodeField.Statement (.paramUnrec32to63 index value) := fun _ => fieldOp_packWord _ _ _ _ _

theorem OpcodeField.paramUnrec64to127 (index : Half) (value : Half) : OpcodeField.Statement (.paramUnrec64to127 index value) := fun _ => fieldOp_packWord _ _ _ _ _

theorem OpcodeField.paramUnrec128to255 (index : Half) (value : Half) : OpcodeField.Statement (.paramUnrec128to255 index value) := fun _ => fieldOp_packWord _ _ _ _ _

theorem OpcodeField.paramUnrec256to511 (index : Half) (value : Half) : OpcodeField.Statement (.paramUnrec256to511 index value) := fun _ => fieldOp_packWord _ _ _ _ _

theorem OpcodeField.paramUnrec512to1023 (index : Half) (value : Half) : OpcodeField.Statement (.paramUnrec512to1023 index value) := fun _ => fieldOp_packWord _ _ _ _ _

theorem OpcodeField.paramUnrec1024to2047 (index : Half) (value : Half) : OpcodeField.Statement (.paramUnrec1024to2047 index value) := fun _ => fieldOp_packWord _ _ _ _ _

theorem OpcodeField.paramUnrec2048to4095 (index : Half) (value : Half) : OpcodeField.Statement (.paramUnrec2048to4095 index value) := fun _ => fieldOp_packWord _ _ _ _ _

theorem OpcodeField.paramUnrec4096to8191 (index : Half) (value : Half) : OpcodeField.Statement (.paramUnrec4096to8191 index value) := fun _ => fieldOp_packWord _ _ _ _ _

theorem OpcodeField.paramUnrec8192to16383 (index : Half) (value : Half) : OpcodeField.Statement (.paramUnrec8192to16383 index value) := fun _ => fieldOp_packWord _ _ _ _ _

theorem OpcodeField.paramUnrec16384to32767 (index : Half) (value : Half) : OpcodeField.Statement (.paramUnrec16384to32767 index value) := fun _ => fieldOp_packWord _ _ _ _ _

theorem OpcodeField.paramUnrec32768to65535 (index : Half) (value : Half) : OpcodeField.Statement (.paramUnrec32768to65535 index value) := fun _ => fieldOp_packWord _ _ _ _ _

theorem OpcodeField.reserved00 : OpcodeField.Statement (.reserved00) := fun _ => fieldOp_packWord _ _ _ _ _

theorem OpcodeField.reserved06to07 (op : Byte) : OpcodeField.Statement (.reserved06to07 op) := fun _ => fieldOp_packWord _ _ _ _ _

theorem OpcodeField.reserved08to0F (op : Byte) : OpcodeField.Statement (.reserved08to0F op) := fun _ => fieldOp_packWord _ _ _ _ _

theorem OpcodeField.reserved10to1F (op : Byte) : OpcodeField.Statement (.reserved10to1F op) := fun _ => fieldOp_packWord _ _ _ _ _

theorem OpcodeField.reserved20to3F (op : Byte) : OpcodeField.Statement (.reserved20to3F op) := fun _ => fieldOp_packWord _ _ _ _ _

theorem OpcodeField.reserved40to7F (op : Byte) : OpcodeField.Statement (.reserved40to7F op) := fun _ => fieldOp_packWord _ _ _ _ _

theorem OpcodeField.reserved80toFF (op : Byte) : OpcodeField.Statement (.reserved80toFF op) := fun _ => fieldOp_packWord _ _ _ _ _

theorem IndexField.init (platformId : Word) (apiVersion : Word) : IndexField.Statement (.init platformId apiVersion) := fun _ _ h => by cases h

theorem IndexField.cycle (note : Byte) (mod : Byte) (lfo : F) (frames : Word) : IndexField.Statement (.cycle note mod lfo frames) := fun _ _ h => by cases h

theorem IndexField.noteOn (note : Byte) (mod : Byte) (lfo : F) : IndexField.Statement (.noteOn note mod lfo) := fun _ _ h => by cases h

theorem IndexField.noteOff (note : Byte) (mod : Byte) (lfo : F) : IndexField.Statement (.noteOff note mod lfo) := fun _ _ h => by cases h

theorem IndexField.paramWf1 (value : Half) : IndexField.Statement (.paramWf1 value) := fun _ _ h => by cases h; exact fieldA_packWord _ _ _ _ _

theorem IndexField.paramWf2 (value : Half) : IndexField.Statement (.paramWf2 value) := fun _ _ h => by cases h; exact fieldA_packWord _ _ _ _ _

theorem IndexField.paramBal (value : Half) : IndexField.Statement (.paramBal value) := fun _ _ h => by cases h; exact fieldA_packWord _ _ _ _ _

theorem IndexField.paramDet (value : Half) : IndexField.Statement (.paramDet value) := fun _ _ h => by cases h; exact fieldA_packWord _ _ _ _ _

theorem IndexField.paramSync (value : Half) : IndexField.Statement (.paramSync value) := fun _ _ h => by cases h; exact fieldA_packWord _ _ _ _ _

theorem IndexField.paramUnrec5 (value : Half) : IndexField.Statement (.paramUnrec5 value) := fun _ _ h => by cases h; exact fieldA_packWord _ _ _ _ _

theorem IndexField.paramRsvA (value : Half) : IndexField.Statement (.paramRsvA value) := fun _ _ h => by cases h; exact fieldA_packWord _ _ _ _ _

theorem IndexField.paramRsvB (value : Half) : IndexField.Statement (.paramRsvB value) := fun _ _ h => by cases h; exact fieldA_packWord _ _ _ _ _

theorem IndexField.paramUnrec8to15 (index : Half) (value : Half) : IndexField.Statement (.paramUnrec8to15 index value) := fun _ _ h => by cases h; exact fieldA_packWord _ _ _ _ _

theorem IndexField.paramUnrec16to31 (index : Half) (value : Half) : IndexField.Statement (.paramUnrec16to31 index value) := fun _ _ h => by cases h; exact fieldA_packWord _ _ _ _ _

theorem IndexField.paramUnrec32to63 (index : Half) (value : Half) : IndexField.Statement (.paramUnrec32to63 index value) := fun _ _ h => by cases h; exact fieldA_packWord _ _ _ _ _

theorem IndexField.paramUnrec64to127 (index : Half) (value : Half) : IndexField.Statement (.paramUnrec64to127 index value) := fun _ _ h => by cases h; exact fieldA_packWord _ _ _ _ _

theorem IndexField.paramUnrec128to255 (index : Half) (value : Half) : IndexField.Statement (.paramUnrec128to255 index value) := fun _ _ h => by cases h; exact fieldA_packWord _ _ _ _ _

theorem IndexField.paramUnrec256to511 (index : Half) (value : Half) : IndexField.Statement (.paramUnrec256to511 index value) := fun _ _ h => by cases h; exact fieldA_packWord _ _ _ _ _

theorem IndexField.paramUnrec512to1023 (index : Half) (value : Half) : IndexField.Statement (.paramUnrec512to1023 index value) := fun _ _ h => by cases h; exact fieldA_packWord _ _ _ _ _

theorem IndexField.paramUnrec1024to2047 (index : Half) (value : Half) : IndexField.Statement (.paramUnrec1024to2047 index value) := fun _ _ h => by cases h; exact fieldA_packWord _ _ _ _ _

theorem IndexField.paramUnrec2048to4095 (index : Half) (value : Half) : IndexField.Statement (.paramUnrec2048to4095 index value) := fun _ _ h => by cases h; exact fieldA_packWord _ _ _ _ _

theorem IndexField.paramUnrec4096to8191 (index : Half) (value : Half) : IndexField.Statement (.paramUnrec4096to8191 index value) := fun _ _ h => by cases h; exact fieldA_packWord _ _ _ _ _

theorem IndexField.paramUnrec8192to16383 (index : Half) (value : Half) : IndexField.Statement (.paramUnrec8192to16383 index value) := fun _ _ h => by cases h; exact fieldA_packWord _ _ _ _ _

theorem IndexField.paramUnrec16384to32767 (index : Half) (value : Half) : IndexField.Statement (.paramUnrec16384to32767 index value) := fun _ _ h => by cases h; exact fieldA_packWord _ _ _ _ _

theorem IndexField.paramUnrec32768to65535 (index : Half) (value : Half) : IndexField.Statement (.paramUnrec32768to65535 index value) := fun _ _ h => by cases h; exact fieldA_packWord _ _ _ _ _

theorem IndexField.reserved00 : IndexField.Statement (.reserved00) := fun _ _ h => by cases h

theorem IndexField.reserved06to07 (op : Byte) : IndexField.Statement (.reserved06to07 op) := fun _ _ h => by cases h

theorem IndexField.reserved08to0F (op : Byte) : IndexField.Statement (.reserved08to0F op) := fun _ _ h => by cases h

theorem IndexField.reserved10to1F (op : Byte) : IndexField.Statement (.reserved10to1F op) := fun _ _ h => by cases h

theorem IndexField.reserved20to3F (op : Byte) : IndexField.Statement (.reserved20to3F op) := fun _ _ h => by cases h

theorem IndexField.reserved40to7F (op : Byte) : IndexField.Statement (.reserved40to7F op) := fun _ _ h => by cases h

theorem IndexField.reserved80toFF (op : Byte) : IndexField.Statement (.reserved80toFF op) := fun _ _ h => by cases h

end Sys2Proof.Laws
end

