-- ==== Sys2Proof/Tests/Slice0.lean ====
section
/-! SUPPORT. The model's own tests: the smoke test of WellFormed, words written out from the encoding rules, single steps on
small states with results from the tables of spec/95_test_vectors.md, and for every statement with hypotheses a state and
operands that meet them. -/

namespace Sys2Proof.Tests

open Sys2Proof Sys2Proof.Machine

/-! ## Helpers -/

/-- A resting state with this Voice State. -/
def rest (v : Voice) : State := { State.reset with voice := v }

/-- The Voice State INIT leaves with the draws 0.0 and 0.5 (95 P1). -/
def voiceP1 : Voice := { wf1 := 1, wf2 := 1, sync := 0, ph1 := 0x00000000, ph2 := 0x3F000000, bal := 0x3F000000, det := 0x3F000000 }

/-- Two triangles at the phases `p`, `q` (95 P1 to P4). -/
def triangles (sync : Half) (p q : F) : Voice := { voiceP1 with wf1 := 2, wf2 := 2, sync := sync, ph1 := p, ph2 := q }

/-- Latches with the increments `w1`, `w2`, at sample `N` = 0. -/
def increments (w1 w2 : F) : Latches := { lfo01 := 0, f1 := 0, f2 := 0, w1 := w1, w2 := w2, n := 0 }

/-- A CYCLE in progress on triangles. -/
def inCycle (sync : Half) (p q w1 w2 : F) : State := { rest (triangles sync p q) with latches := some (increments w1 w2) }

/-- The phases one sample step leaves (95 section 3.5). -/
def phasesAfter (sync : Half) (p q w1 w2 : F) : F × F :=
  ((sampleStep (inCycle sync p q w1 w2)).voice.ph1, (sampleStep (inCycle sync p q w1 w2)).voice.ph2)

/-- The state after one step, `s` itself where there is none. -/
def after (o : Host.Outcome State Fault Refusal) (s : State) : State :=
  match o with
  | .next t => t
  | _ => s

/-- One step of a resting state with this word offered. -/
def stepWord (v : Voice) (w : CmdWord) : State := after (step { rest v with inputs := [.command w] }) (rest v)

/-- The same with the random unit's answers supplied: the Voice State, the answers left, and OUT. -/
def stepAnswered (v : Voice) (r : RandomUnit) (w : CmdWord) : Voice × RandomUnit × Memory :=
  let t := after (step { rest v with inputs := [.command w], random := r }) (rest v)
  (t.voice, t.random, t.out)

/-- Whether a step answers a next state. -/
def runs (o : Host.Outcome State Fault Refusal) : Bool :=
  match o with
  | .next _ => true
  | _ => false

/-! ## WellFormed: each check refuses a term outside its range and accepts both ends of it -/

theorem test_wellFormed_paramUnrec8to15 : WellFormed (.paramUnrec8to15 7 0) = false ∧ WellFormed (.paramUnrec8to15 16 0) = false ∧
    WellFormed (.paramUnrec8to15 8 0) = true ∧ WellFormed (.paramUnrec8to15 15 0) = true := by decide

theorem test_wellFormed_paramUnrec16to31 : WellFormed (.paramUnrec16to31 15 0) = false ∧ WellFormed (.paramUnrec16to31 32 0) = false ∧
    WellFormed (.paramUnrec16to31 16 0) = true ∧ WellFormed (.paramUnrec16to31 31 0) = true := by decide

theorem test_wellFormed_paramUnrec32to63 : WellFormed (.paramUnrec32to63 31 0) = false ∧ WellFormed (.paramUnrec32to63 64 0) = false ∧
    WellFormed (.paramUnrec32to63 32 0) = true ∧ WellFormed (.paramUnrec32to63 63 0) = true := by decide

theorem test_wellFormed_paramUnrec64to127 : WellFormed (.paramUnrec64to127 63 0) = false ∧ WellFormed (.paramUnrec64to127 128 0) = false ∧
    WellFormed (.paramUnrec64to127 64 0) = true ∧ WellFormed (.paramUnrec64to127 127 0) = true := by decide

theorem test_wellFormed_paramUnrec128to255 : WellFormed (.paramUnrec128to255 127 0) = false ∧ WellFormed (.paramUnrec128to255 256 0) = false ∧
    WellFormed (.paramUnrec128to255 128 0) = true ∧ WellFormed (.paramUnrec128to255 255 0) = true := by decide

theorem test_wellFormed_paramUnrec256to511 : WellFormed (.paramUnrec256to511 255 0) = false ∧ WellFormed (.paramUnrec256to511 512 0) = false ∧
    WellFormed (.paramUnrec256to511 256 0) = true ∧ WellFormed (.paramUnrec256to511 511 0) = true := by decide

theorem test_wellFormed_paramUnrec512to1023 : WellFormed (.paramUnrec512to1023 511 0) = false ∧ WellFormed (.paramUnrec512to1023 1024 0) = false ∧
    WellFormed (.paramUnrec512to1023 512 0) = true ∧ WellFormed (.paramUnrec512to1023 1023 0) = true := by decide

theorem test_wellFormed_paramUnrec1024to2047 : WellFormed (.paramUnrec1024to2047 1023 0) = false ∧ WellFormed (.paramUnrec1024to2047 2048 0) = false ∧
    WellFormed (.paramUnrec1024to2047 1024 0) = true ∧ WellFormed (.paramUnrec1024to2047 2047 0) = true := by decide

theorem test_wellFormed_paramUnrec2048to4095 : WellFormed (.paramUnrec2048to4095 2047 0) = false ∧ WellFormed (.paramUnrec2048to4095 4096 0) = false ∧
    WellFormed (.paramUnrec2048to4095 2048 0) = true ∧ WellFormed (.paramUnrec2048to4095 4095 0) = true := by decide

theorem test_wellFormed_paramUnrec4096to8191 : WellFormed (.paramUnrec4096to8191 4095 0) = false ∧ WellFormed (.paramUnrec4096to8191 8192 0) = false ∧
    WellFormed (.paramUnrec4096to8191 4096 0) = true ∧ WellFormed (.paramUnrec4096to8191 8191 0) = true := by decide

theorem test_wellFormed_paramUnrec8192to16383 : WellFormed (.paramUnrec8192to16383 8191 0) = false ∧ WellFormed (.paramUnrec8192to16383 16384 0) = false ∧
    WellFormed (.paramUnrec8192to16383 8192 0) = true ∧ WellFormed (.paramUnrec8192to16383 16383 0) = true := by decide

theorem test_wellFormed_paramUnrec16384to32767 : WellFormed (.paramUnrec16384to32767 16383 0) = false ∧ WellFormed (.paramUnrec16384to32767 32768 0) = false ∧
    WellFormed (.paramUnrec16384to32767 16384 0) = true ∧ WellFormed (.paramUnrec16384to32767 32767 0) = true := by decide

theorem test_wellFormed_paramUnrec32768to65535 : WellFormed (.paramUnrec32768to65535 32767 0) = false ∧ WellFormed (.paramUnrec32768to65535 32768 0) = true ∧
    WellFormed (.paramUnrec32768to65535 65535 0) = true := by decide

theorem test_wellFormed_reserved06to07 : WellFormed (.reserved06to07 5) = false ∧ WellFormed (.reserved06to07 8) = false ∧
    WellFormed (.reserved06to07 6) = true ∧ WellFormed (.reserved06to07 7) = true := by decide

theorem test_wellFormed_reserved08to0F : WellFormed (.reserved08to0F 7) = false ∧ WellFormed (.reserved08to0F 16) = false ∧
    WellFormed (.reserved08to0F 8) = true ∧ WellFormed (.reserved08to0F 15) = true := by decide

theorem test_wellFormed_reserved10to1F : WellFormed (.reserved10to1F 15) = false ∧ WellFormed (.reserved10to1F 32) = false ∧
    WellFormed (.reserved10to1F 16) = true ∧ WellFormed (.reserved10to1F 31) = true := by decide

theorem test_wellFormed_reserved20to3F : WellFormed (.reserved20to3F 31) = false ∧ WellFormed (.reserved20to3F 64) = false ∧
    WellFormed (.reserved20to3F 32) = true ∧ WellFormed (.reserved20to3F 63) = true := by decide

theorem test_wellFormed_reserved40to7F : WellFormed (.reserved40to7F 63) = false ∧ WellFormed (.reserved40to7F 128) = false ∧
    WellFormed (.reserved40to7F 64) = true ∧ WellFormed (.reserved40to7F 127) = true := by decide

theorem test_wellFormed_reserved80toFF : WellFormed (.reserved80toFF 127) = false ∧ WellFormed (.reserved80toFF 128) = true ∧
    WellFormed (.reserved80toFF 255) = true := by decide

/-- The commands that carry no index or opcode are well formed with any operands. -/
theorem test_wellFormed_others :
    [Instr.init 1 2, .cycle 255 255 0x7FC00000 0xFFFFFFFF, .noteOn 0 0 0, .noteOff 0 0 0, .paramWf1 0xFFFF, .paramWf2 5,
      .paramBal 200, .paramDet 0, .paramSync 2, .paramUnrec5 77, .paramRsvA 1023, .paramRsvB 2000, .reserved00].all WellFormed =
      true := by decide

/-! ## Decoding: words written out as op, rsv, A, B, C (30_encoding R72, R73, R75, R78, R80) -/

/-- 01 00 FFFF 00000000 00000000 (95 section 3.7: A ignored) and the INIT of R83. -/
theorem test_decode_init : decode 0x0100_FFFF_00000000_00000000 = .init 0 0 ∧
    decode 0x0100_0000_12345678_00010001 = .init 0x12345678 0x00010001 := by decide

/-- Both CYCLE words of 95 section 3.7; the second has `rsv` = A5. -/
theorem test_decode_cycle : decode 0x0200_6400_3F800000_00000008 = .cycle 100 0 0x3F800000 8 ∧
    decode 0x02A5_3C80_BF000000_00000100 = .cycle 60 128 0xBF000000 256 := by decide

/-- NOTE_ON: `note` in A[15:8], `mod` in A[7:0], `lfo` in B, C ignored. -/
theorem test_decode_noteOn : decode 0x03FF_4580_3F000000_FFFFFFFF = .noteOn 69 128 0x3F000000 := by decide

/-- NOTE_OFF, the same format. -/
theorem test_decode_noteOff : decode 0x0400_7F01_BF800000_00000001 = .noteOff 127 1 0xBF800000 := by decide

/-- The PARAM indices with a row of their own; `value` is B[15:0], and B[31:16], C, rsv are ignored (95 sections 3.2, 3.7). -/
theorem test_decode_param :
    decode 0x0500_0000_00000004_00000000 = .paramWf1 4 ∧ decode 0x0500_0001_0000FFFF_00000000 = .paramWf2 65535 ∧
    decode 0x05FF_0002_ABCD0032_12345678 = .paramBal 50 ∧ decode 0x0500_0003_FFFF0096_DEADBEEF = .paramDet 150 ∧
    decode 0x0500_0004_00000002_00000000 = .paramSync 2 ∧ decode 0x0500_0005_0000004D_00000000 = .paramUnrec5 77 ∧
    decode 0x0500_0006_000003FF_00000000 = .paramRsvA 1023 ∧ decode 0x0500_0007_000007D0_00000000 = .paramRsvB 2000 := by
  decide

/-- The first and the last index of each of the other PARAM rows. -/
theorem test_decode_param_unrecognised :
    decode 0x0500_0008_00000001_00000000 = .paramUnrec8to15 8 1 ∧ decode 0x0500_000F_0000FFFF_00000000 = .paramUnrec8to15 15 65535 ∧
    decode 0x0500_0010_00000001_00000000 = .paramUnrec16to31 16 1 ∧ decode 0x0500_001F_0000FFFF_00000000 = .paramUnrec16to31 31 65535 ∧
    decode 0x0500_0020_00000001_00000000 = .paramUnrec32to63 32 1 ∧ decode 0x0500_003F_0000FFFF_00000000 = .paramUnrec32to63 63 65535 ∧
    decode 0x0500_0040_00000001_00000000 = .paramUnrec64to127 64 1 ∧ decode 0x0500_007F_0000FFFF_00000000 = .paramUnrec64to127 127 65535 ∧
    decode 0x0500_0080_00000001_00000000 = .paramUnrec128to255 128 1 ∧ decode 0x0500_00FF_0000FFFF_00000000 = .paramUnrec128to255 255 65535 ∧
    decode 0x0500_0100_00000001_00000000 = .paramUnrec256to511 256 1 ∧ decode 0x0500_01FF_0000FFFF_00000000 = .paramUnrec256to511 511 65535 ∧
    decode 0x0500_0200_00000001_00000000 = .paramUnrec512to1023 512 1 ∧ decode 0x0500_03FF_0000FFFF_00000000 = .paramUnrec512to1023 1023 65535 ∧
    decode 0x0500_0400_00000001_00000000 = .paramUnrec1024to2047 1024 1 ∧ decode 0x0500_07FF_0000FFFF_00000000 = .paramUnrec1024to2047 2047 65535 ∧
    decode 0x0500_0800_00000001_00000000 = .paramUnrec2048to4095 2048 1 ∧ decode 0x0500_0FFF_0000FFFF_00000000 = .paramUnrec2048to4095 4095 65535 ∧
    decode 0x0500_1000_00000001_00000000 = .paramUnrec4096to8191 4096 1 ∧ decode 0x0500_1FFF_0000FFFF_00000000 = .paramUnrec4096to8191 8191 65535 ∧
    decode 0x0500_2000_00000001_00000000 = .paramUnrec8192to16383 8192 1 ∧ decode 0x0500_3FFF_0000FFFF_00000000 = .paramUnrec8192to16383 16383 65535 ∧
    decode 0x0500_4000_00000001_00000000 = .paramUnrec16384to32767 16384 1 ∧ decode 0x0500_7FFF_0000FFFF_00000000 = .paramUnrec16384to32767 32767 65535 ∧
    decode 0x0500_8000_00000001_00000000 = .paramUnrec32768to65535 32768 1 ∧ decode 0x0500_FFFF_0000FFFF_00000000 = .paramUnrec32768to65535 65535 65535 := by
  decide

/-- The first and the last opcode of each reserved row, the other fields all ones in the second. -/
theorem test_decode_reserved :
    decode 0x00FF_FFFF_FFFFFFFF_FFFFFFFF = .reserved00 ∧
    decode 0x0600_0002_00000032_00000000 = .reserved06to07 0x06 ∧ decode 0x07FF_FFFF_FFFFFFFF_FFFFFFFF = .reserved06to07 0x07 ∧
    decode 0x0800_0002_00000032_00000000 = .reserved08to0F 0x08 ∧ decode 0x0FFF_FFFF_FFFFFFFF_FFFFFFFF = .reserved08to0F 0x0F ∧
    decode 0x1000_0002_00000032_00000000 = .reserved10to1F 0x10 ∧ decode 0x1FFF_FFFF_FFFFFFFF_FFFFFFFF = .reserved10to1F 0x1F ∧
    decode 0x2000_0002_00000032_00000000 = .reserved20to3F 0x20 ∧ decode 0x3FFF_FFFF_FFFFFFFF_FFFFFFFF = .reserved20to3F 0x3F ∧
    decode 0x4000_0002_00000032_00000000 = .reserved40to7F 0x40 ∧ decode 0x7FFF_FFFF_FFFFFFFF_FFFFFFFF = .reserved40to7F 0x7F ∧
    decode 0x8000_0002_00000032_00000000 = .reserved80toFF 0x80 ∧ decode 0xFFFF_FFFF_FFFFFFFF_FFFFFFFF = .reserved80toFF 0xFF := by
  decide

/-- A bit string longer than a command word is rejected by name; one of 96 bits or fewer is not. -/
theorem test_decode_reject : decodeBits 97 0 = .error .notACommandWord ∧ decodeTableWord 97 0 = none ∧
    decodeTableWord 96 0x0500_0002_00000032_00000000 = some (.paramBal 50) ∧ decodeTableWord 8 0xFFFF = some .reserved00 := by
  decide

/-- The encoder, against the words of the programs in 95 section 4. -/
theorem test_encode :
    encode (.init 0 0) = 0x0100_0000_00000000_00000000 ∧ encode (.paramWf1 2) = 0x0500_0000_00000002_00000000 ∧
    encode (.paramSync 1) = 0x0500_0004_00000001_00000000 ∧
    encode (.cycle 88 0 0xBF800000 3) = 0x0200_5800_BF800000_00000003 ∧
    encode (.noteOn 69 0 0) = 0x0300_4500_00000000_00000000 ∧ encode (.noteOff 69 0 0) = 0x0400_4500_00000000_00000000 ∧
    encode (.paramUnrec256to511 256 2) = 0x0500_0100_00000002_00000000 ∧
    encode (.reserved06to07 6) = 0x0600_0000_00000000_00000000 := by decide

/-! ## Every row of the opcode table as the first instruction after reset -/

/-- The word of each row with every other bit 0 is read by the decoder as that row's instruction. -/
theorem test_rows_decode : opcodeTable.all (fun r =>
    match decodeTableWord 96 r.pattern.toNat with
    | some i => decide (rowOf i = r)
    | none => false) = true := by decide

/-- And the first step after reset runs it. -/
theorem test_rows_run : opcodeTable.all (fun r => runs (step (State.reset.withFetchWord 96 r.pattern.toNat))) = true := by
  decide

/-! ## Arithmetic and functions, from the tables of 95_test_vectors.md -/

/-- 95 section 3.1. -/
theorem test_tri :
    [(0x3D800000 : F), 0x3DCCCCCD, 0x3E800000, 0x3E800001, 0x3E800003, 0x3E99999A, 0x3F000000, 0x3F000001, 0x3F19999A,
      0x3F400000, 0x3F400001, 0x3F666666, 0x3F7FFFFF, 0xBE000000].map tri =
    [0x3E800000, 0x3ECCCCCD, 0x3F800000, 0x3F7FFFFE, 0x3F7FFFFA, 0x3F4CCCCC, 0x00000000, 0xB4800000, 0xBECCCCD0,
      0xBF800000, 0xBF7FFFFC, 0xBECCCCD0, 0xB4800000, 0xBF000000] := by decide

/-- 95 section 3.4, `TO_FIXED` alone. -/
theorem test_toFixed :
    [(0x3E800000 : F), 0xBD800000, 0x3EA8F5C3, 0x3F7FFFFF, 0xBF7FFFFF, 0x3F800000, 0x30000000, 0x2F800000, 0xAEDBE6FF,
      0x7F800000, 0xFF800000].map toFixed =
    [0x20000000, 0xF8000000, 0x2A3D70C0, 0x7FFFFF80, 0x80000080, 0x7FFFFFFF, 0x00000001, 0x00000000, 0x00000000,
      0x7FFFFFFF, 0x80000000] := by decide

/-- 95 section 3.4: `MIX` of balance, `S1`, `S2`. -/
theorem test_mix :
    [((0x00000000 : F), (0x3F000000 : F), (0xBF400000 : F)), (0x3F800000, 0x3F000000, 0xBF400000),
      (0x3F000000, 0x3F800000, 0xBF800000), (0x3EA8F5C3, 0x3F000000, 0xBE800000), (0x3F7D70A4, 0x3F800000, 0x3F800000),
      (0x00000000, 0x80000000, 0x3F800000), (0x40000000, 0xBF800000, 0x3F000000), (0x4123AE14, 0x3F800000, 0xBF800000)].map
        (fun x => mix x.1 x.2.1 x.2.2) =
    [0x3F000000, 0xBF400000, 0x00000000, 0x3E8147AD, 0x3F800000, 0x00000000, 0x40000000, 0xC19BAE14] := by decide

/-- 95 section 3.3: `F2` of `F1`, `DET`, `lfo`, with the row of raw 300 and both zeros of `DET`. -/
theorem test_resolver :
    [((0x463B8000 : F), (0x3F000000 : F), (0x00000000 : F)), (0x463B8000, 0x3F800000, 0x3F800000),
      (0x463B8000, 0xBF800000, 0x00000000), (0x463B8000, 0x80000000, 0x3F800000), (0x463B8000, 0x40000000, 0x3F800000),
      (0x43DC0000, 0x3EA8F5C3, 0x3F800000), (0x43DC0000, 0xBEA8F5C3, 0x3F800000), (0x43DC0000, 0x3F000000, 0x3E99999A)].map
        (fun x => resolveF2 x.1 x.2.1 (rescaleLfo x.2.2)) =
    [0x466A6000, 0x46BB8000, 0x460CA000, 0x463B8000, 0x470CA000, 0x44124CCD, 0x43B7B333, 0x4411C000] := by decide

/-! ## Single steps: at most two for an instruction -/

/-- 95 section 3.6: INIT on a used Voice State with the draws 0.25 and 0.8125 of its first row. -/
theorem test_init_defaults : stepAnswered { voiceP1 with wf1 := 2, wf2 := 4, sync := 1, bal := 0x40000000, det := 0xBF800000 }
      { phase := [0x3E800000, 0x3F500000, 0x00000000], noise := [] } 0x0100_0000_12345678_00010001 =
    ({ wf1 := 1, wf2 := 1, sync := 0, ph1 := 0x3E800000, ph2 := 0x3F500000, bal := 0x3F000000, det := 0x3F000000 },
      { phase := [0x00000000], noise := [] }, []) := by decide

/-- An answer outside [0,1), or none, leaves a draw that is free but in range; its value is not known. -/
theorem test_init_free_draws : (stepWord voiceP1 0x0100_0000_00000000_00000000).voice.ph1 = randPhase none 0 ∧
    randPhase (some 0x3F800000) 7 = randPhase none 7 := ⟨rfl, rfl⟩

/-- 95 P3, first CYCLE: both triangles at 0.75, so slot 0 takes -1.0; it does not depend on the pitch. And 95 P6,
sample 0: two noise oscillators at balance 0.25 with the draws 0.5 and -0.5, oscillator 1 taking the first. -/
theorem test_cycle_first_sample : (stepWord (triangles 0 0x3F400000 0x3F400000) 0x0200_6400_3F800000_00000001).outRead 0 =
      some 0x80000000 ∧
    (stepAnswered { voiceP1 with wf1 := 4, wf2 := 4, bal := 0x3E800000 }
      { phase := [], noise := [0x3F000000, 0xBF000000, 0xBF800000] } 0x0200_5800_BF800000_00000001).2 =
      ({ phase := [], noise := [0xBF800000] }, [(0, 0x20000000)]) := by decide

/-- 95 section 3.5, the sample step: osc2 alone at exactly 1.0 and over 3; osc1 at exactly 1.0; both with sync 1, 0, 2; the
deferred wrap; three wraps of osc1; the realistic increments. -/
theorem test_cycle_wrap_and_sync :
    [phasesAfter 0 0x3F000000 0x3F200000 0x3E800000 0x3EC00000, phasesAfter 0 0x3F000000 0x3F000000 0x3E800000 0x40300000,
      phasesAfter 0 0x3F400000 0x00000000 0x3E800000 0x3E800000, phasesAfter 1 0x3F600000 0x3F400000 0x3E800000 0x3EC00000,
      phasesAfter 0 0x3F600000 0x3F400000 0x3E800000 0x3EC00000, phasesAfter 2 0x3F700000 0x3F700000 0x3D800000 0x3D800000,
      phasesAfter 0 0x00000000 0x3F900000 0x3E800000 0x3EC00000, phasesAfter 1 0x3F400000 0x3F000000 0x40200000 0x3E800000,
      phasesAfter 0 0x3F7EB852 0x3E99999A 0x3C162FC9 0x3C3BBBBC, phasesAfter 1 0x3F7EB852 0x3E99999A 0x3C162FC9 0x3C3BBBBC] =
    [(0x3F400000, 0x00000000), (0x3F400000, 0x3E800000), (0x00000000, 0x3E800000), (0x3E000000, 0x3E000000),
      (0x3E000000, 0x3F900000), (0x00000000, 0x3F800000), (0x3E800000, 0x3F000000), (0x3E800000, 0x3E800000),
      (0x3B888900, 0x3E9F7778), (0x3B888900, 0x3B888900)] := by decide

/-- 95 section 3.6. -/
theorem test_noteOn_nothing : stepWord voiceP1 0x0300_4500_00000000_00000000 = rest voiceP1 := by decide

/-- 95 section 3.6. -/
theorem test_noteOff_nothing : stepWord voiceP1 0x0400_4500_00000000_00000000 = rest voiceP1 := by decide

/-- 95 section 3.2: a code without a generator is stored. -/
theorem test_paramWf1 : (stepWord voiceP1 0x0500_0000_00000005_00000000).voice = { voiceP1 with wf1 := 5 } := by decide

/-- 95 section 3.2. -/
theorem test_paramWf2 : (stepWord voiceP1 0x0500_0001_0000FFFF_00000000).voice = { voiceP1 with wf2 := 65535 } := by decide

/-- 95 section 3.2, the balance table. -/
theorem test_paramBal : [(1 : Half), 25, 75, 99, 101].map (fun v => (after (exec (.paramBal v) (rest voiceP1)) (rest voiceP1)).voice.bal) =
    [0x3C23D70A, 0x3E800000, 0x3F400000, 0x3F7D70A4, 0x3F8147AE] := by decide

/-- 95 section 3.2, the detune table. -/
theorem test_paramDet : [(1 : Half), 50, 99, 101, 133, 201].map
      (fun v => (after (exec (.paramDet v) (rest voiceP1)) (rest voiceP1)).voice.det) =
    [0xBF7D70A4, 0xBF000000, 0xBC23D70A, 0x3C23D70A, 0x3EA8F5C3, 0x3F8147AE] := by decide

/-- 95 section 3.2: 2 is stored (and acts as DISABLED). -/
theorem test_paramSync : (stepWord voiceP1 0x0500_0004_00000002_00000000).voice = { voiceP1 with sync := 2 } := by decide

/-- 95 section 3.2: index 5. -/
theorem test_paramUnrec5 : stepWord voiceP1 0x0500_0005_0000004D_00000000 = rest voiceP1 := by decide

/-- 95 section 3.2: the reserved slots. -/
theorem test_paramRsv : stepWord voiceP1 0x0500_0006_000003FF_00000000 = rest voiceP1 ∧
    stepWord voiceP1 0x0500_0007_000007D0_00000000 = rest voiceP1 := by decide

/-- 95 sections 3.2, 3.7: the first index of each row of unrecognised indices, and the last of all. -/
theorem test_paramUnrec : [(0x0500_0008_00000001_00000000 : CmdWord),
    0x0500_0010_00000002_00000000, 0x0500_0020_00000002_00000000, 0x0500_0040_00000002_00000000, 0x0500_0080_00000002_00000000,
    0x0500_0100_00000002_00000000, 0x0500_0200_00000002_00000000, 0x0500_0400_00000002_00000000, 0x0500_0800_00000002_00000000,
    0x0500_1000_00000002_00000000, 0x0500_2000_00000002_00000000, 0x0500_4000_00000002_00000000, 0x0500_8000_00000002_00000000,
    0x0500_FFFF_0000FFFF_00000000].all (fun w => decide (stepWord voiceP1 w = rest voiceP1)) = true := by decide

/-- 95 section 3.6: the all-zero word, a word of each reserved row, and the word of all ones. -/
theorem test_reserved : [(0x0000_0000_00000000_00000000 : CmdWord), 0x0600_0000_00000000_00000000, 0x0700_0002_00000032_00000000,
    0x0800_0000_00000000_00000000, 0x1000_0000_00000000_00000000, 0x2000_0000_00000000_00000000, 0x4000_0000_00000000_00000000,
    0x8000_0000_00000000_00000000, 0xFFFF_FFFF_FFFFFFFF_FFFFFFFF].all (fun w => decide (stepWord voiceP1 w = rest voiceP1)) =
    true := by decide

/-- 70_reset R231: a CYCLE abandoned after one OUT write keeps that slot and makes no more. -/
theorem test_reset_during_cycle :
    (after (step { rest (triangles 0 0x3F400000 0x3F400000) with
      inputs := [.resetDuring 0x0200_6400_3F800000_00000003 1] }) State.reset).out = [(0, 0x80000000)] := by decide

/-- OUT in canonical form: slots rise, a later write replaces. -/
theorem test_out_write : Memory.write (Memory.write (Memory.write [] 3 7) 1 5) 3 9 = [(1, 5), (3, 9)] ∧
    Memory.wf [(3, 7), (1, 5)] = false ∧ Memory.wf [(4294967296, 0)] = false ∧ Memory.wf [(0, 0), (4294967295, 0)] = true := by
  decide

/-! ## Witnesses: for every statement with hypotheses, data that meet them, each clause at a boundary -/

/-- DecodeOfEncode: both ends of a row of indices and of a row of opcodes. -/
theorem witness_DecodeOfEncode : WellFormed (.paramUnrec8to15 8 0) = true ∧ WellFormed (.paramUnrec8to15 15 0xFFFF) = true ∧
    WellFormed (.paramUnrec32768to65535 0xFFFF 1) = true ∧ WellFormed (.reserved06to07 6) = true ∧
    WellFormed (.reserved80toFF 0xFF) = true := by decide

/-- TableRowsPartitionWords: a row that selects the word 0, and one that selects the word of all ones. -/
theorem witness_TableRowsPartitionWords : rowOf .reserved00 ∈ opcodeTable ∧ (rowOf .reserved00).selects 0 = true ∧
    rowOf (.reserved80toFF 0) ∈ opcodeTable ∧ (rowOf (.reserved80toFF 0)).selects (-1) = true := by decide

/-- IgnoredFieldsChangeNothing: for each format two unequal words that agree in the fields used, and two that do not. -/
theorem witness_IgnoredFieldsChangeNothing :
    sameUsedFields 0x01FF_FFFF_00000001_00000002 0x0100_0000_00000001_00000002 = true ∧
    sameUsedFields 0x02A5_3C80_BF000000_00000100 0x0200_3C80_BF000000_00000100 = true ∧
    sameUsedFields 0x03FF_4500_00000000_FFFFFFFF 0x0300_4500_00000000_00000000 = true ∧
    sameUsedFields 0x04FF_4500_00000000_FFFFFFFF 0x0400_4500_00000000_00000000 = true ∧
    sameUsedFields 0x05FF_0002_ABCD0032_12345678 0x0500_0002_00000032_00000000 = true ∧
    sameUsedFields 0x00FF_FFFF_FFFFFFFF_FFFFFFFF 0 = true ∧
    sameUsedFields 0xFFFF_FFFF_FFFFFFFF_FFFFFFFF 0xFF00_0000_00000000_00000000 = true ∧
    sameUsedFields 0x0500_0002_00000032_00000000 0x0500_0002_00000033_00000000 = false ∧
    sameUsedFields 0x0700_0000_00000000_00000000 0x0600_0000_00000000_00000000 = false := by decide

/-- StepRunsDecodedCommand: a state with a word offered. -/
theorem witness_StepRunsDecodedCommand :
    (State.reset.withFetchWord 96 0x0500_0002_00000032_00000000).inputs = .command 0x0500_0002_00000032_00000000 :: [] := by
  decide

/-- IdleEngineHoldsState: a state with nothing offered. -/
theorem witness_IdleEngineHoldsState : (rest voiceP1).inputs = [] := rfl

/-- A resting state with a word offered that meets the invariant, its balance and detune the 0.5 that INIT leaves. -/
theorem inv_offered (w : CmdWord) : ({ rest voiceP1 with inputs := [.command w] } : State).Inv :=
  ⟨rfl, rfl, fun _ => rfl, ⟨50, by show voiceP1.bal = _; decide⟩, ⟨150, by show voiceP1.det = _; decide⟩⟩

/-- StepKeepsInvariant: a state that meets the invariant, and the step of a CYCLE of two frames from it. -/
theorem witness_StepKeepsInvariant : ∃ s t : State, s.Inv ∧ step s = .next t ∧ t.outPort.length = 2 :=
  ⟨_, _, inv_offered 0x0200_5800_00000000_00000002, rfl, rfl⟩

/-- ResetDuringCycleKeepsWrittenSlots, CYCLE clause: abandoned after none, all and more than all of its two writes. -/
theorem witness_ResetDuringCycle : decode 0x0200_5800_00000000_00000002 = .cycle 88 0 0x00000000 2 ∧
    min 0 (2 : Word).toNat = 0 ∧ min 2 (2 : Word).toNat = 2 ∧ min 3 (2 : Word).toNat = 2 := by decide

/-- ResetDuringCycleKeepsWrittenSlots, the other clause: words that are no CYCLE. -/
theorem witness_ResetDuringOther : (∀ note mod lfo frames, decode 0x0100_0000_00000000_00000000 ≠ .cycle note mod lfo frames) ∧
    (∀ note mod lfo frames, decode 0x0300_0000_00000000_00000000 ≠ .cycle note mod lfo frames) := by
  refine ⟨fun note mod lfo frames h => ?_, fun note mod lfo frames h => ?_⟩
  · rw [show decode 0x0100_0000_00000000_00000000 = .init 0 0 by decide] at h; cases h
  · rw [show decode 0x0300_0000_00000000_00000000 = .noteOn 0 0 0 by decide] at h; cases h

/-- ReservedOpcodeWordsDoNothing: opcodes 00, 06 and FF; opcode 05 is below the second range. -/
theorem witness_ReservedOpcodeWordsDoNothing : (fieldOp 0x00FF_FFFF_FFFFFFFF_FFFFFFFF).toNat = 0x00 ∧
    0x06 ≤ (fieldOp 0x0600_0000_00000000_00000000).toNat ∧ 0x06 ≤ (fieldOp 0xFF00_0000_00000000_00000000).toNat ∧
    ¬ 0x06 ≤ (fieldOp 0x0500_0000_00000000_00000000).toNat := by decide

/-- ParamWf1StoresRawValue and ParamWf2StoresRawValue: the ends of the codes without a generator. -/
theorem witness_ParamWfStoresRawValue : 5 ≤ (5 : Half).toNat ∧ 5 ≤ (65535 : Half).toNat ∧ ¬ 5 ≤ (4 : Half).toNat := by decide

/-- ParamSyncStoresRawValue: the value that enables sync, and its neighbours that do not. -/
theorem witness_ParamSyncStoresRawValue : syncEnabled 1 = true ∧ syncEnabled 0 = false ∧ syncEnabled 2 = false ∧
    syncEnabled 65535 = false := by decide

/-- ParameterRegisterRanges: a state that meets the invariant with both registers at the ends of their ranges. -/
theorem witness_ParameterRegisterRanges :
    (rest { voiceP1 with bal := 0x4423D666, det := 0xBF800000 }).Inv ∧ (rest { voiceP1 with bal := 0x00000000, det := 0x44239666 }).Inv :=
  ⟨⟨rfl, rfl, fun _ => rfl, ⟨65535, by decide⟩, ⟨0, by decide⟩⟩, ⟨rfl, rfl, fun _ => rfl, ⟨0, by decide⟩, ⟨65535, by decide⟩⟩⟩

/-- UnrecognisedIndexWordsDoNothing: indices 5, 8 and 65535. -/
theorem witness_UnrecognisedIndexWordsDoNothing :
    (fieldOp 0x0500_0005_0000004D_00000000).toNat = 0x05 ∧ (fieldA 0x0500_0005_0000004D_00000000).toNat = 5 ∧
    (fieldOp 0x0500_0008_00000001_00000000).toNat = 0x05 ∧ 8 ≤ (fieldA 0x0500_0008_00000001_00000000).toNat ∧
    (fieldOp 0x0500_FFFF_0000FFFF_00000000).toNat = 0x05 ∧ 8 ≤ (fieldA 0x0500_FFFF_0000FFFF_00000000).toNat := by decide

/-- LastParameterWriteWins: the first write of each pair completes. -/
theorem witness_LastParameterWriteWins : ∃ t1 t2 t3 t4 t5 : State,
    exec (.paramWf1 0xFFFF) (rest voiceP1) = .next t1 ∧ exec (.paramWf2 0) (rest voiceP1) = .next t2 ∧
    exec (.paramBal 200) (rest voiceP1) = .next t3 ∧ exec (.paramDet 0) (rest voiceP1) = .next t4 ∧
    exec (.paramSync 2) (rest voiceP1) = .next t5 := ⟨_, _, _, _, _, rfl, rfl, rfl, rfl, rfl⟩

/-- TriangleRoundsOnce: the quartile boundaries, the values just above them, and both ends of the range. -/
theorem witness_TriangleRoundsOnce :
    [(0x00000000 : F), 0x80000000, 0x00000001, 0x3E800000, 0x3E800001, 0x3F000000, 0x3F000001, 0x3F400000, 0x3F400001,
      0x3FC00000].all (fun p => fle 0x00000000 p && fle p 0x3FC00000) = true ∧ fle 0x3FC00001 0x3FC00000 = false := by decide

/-- GeneratorsStayInSampleRange: both ends of [0,1), and 1.0 outside it. -/
theorem witness_GeneratorsStayInSampleRange : inUnit 0x00000000 = true ∧ inUnit 0x3F7FFFFF = true ∧ inUnit 0x3F800000 = false := by
  decide

/-- MultiplexerSelectsByCode: the ends of the codes of the default branch, and a code of each kind for the draw. -/
theorem witness_MultiplexerSelectsByCode : 5 ≤ (5 : Half).toNat ∧ 5 ≤ (65535 : Half).toNat ∧ noiseUse 4 = 1 ∧ noiseUse 3 = 0 ∧
    noiseUse 5 = 0 := by decide

/-- ResolverFollowsDetuneSign: the least positive detune, both zeros, and -1.0. -/
theorem witness_ResolverFollowsDetuneSign : flt 0x00000000 0x00000001 = true ∧ flt 0x00000000 0x00000000 = false ∧
    flt 0x00000000 0x80000000 = false ∧ flt 0x00000000 0xBF800000 = false := by decide

/-- RescaledLfoStaysInUnit: both ends of the contract, and the values just outside. -/
theorem witness_RescaledLfoStaysInUnit : inSample 0xBF800000 = true ∧ inSample 0x3F800000 = true ∧ inSample 0xBF800001 = false ∧
    inSample 0x3F800001 = false := by decide

/-- DetunedFrequencyWithinOctave: the least and the greatest frequency, with detune and LFO at the ends. -/
theorem witness_DetunedFrequencyWithinOctave :
    (flt 0x00000000 0x00000001 = true ∧ flt 0x00000001 0x46BB8000 = true) ∧
    (flt 0x00000000 0x46BB7FFF = true ∧ flt 0x46BB7FFF 0x46BB8000 = true) ∧
    inSample 0x3F800000 = true ∧ inSample 0xBF800000 = true := by decide

/-- NoDetuneLeavesFrequency: a zero detune with the LFO at an end, and the greatest detune with the LFO at its minimum. -/
theorem witness_NoDetuneLeavesFrequency : isFinite 0x43DC0000 = true ∧
    (isZero 0x00000000 = true ∧ isZero 0x80000000 = true ∧ inSample 0x3F800000 = true) ∧
    (isFinite 0x44239666 = true ∧ (0xBF800000 : F) = 0xBF800000) := by decide

/-- CycleOfOneFrame, first clause: oscillator 1 at exactly 1.0, whose sum with `W1` reaches 1.0 whatever `NOTE_HZ` is. -/
theorem witness_CycleOfOneFrame_wraps (note mod : Byte) (lfo det : F) :
    fle 0x3F800000 (fadd 0x3F800000 (resolve note mod lfo det).w1) = true := by
  obtain ⟨hf, h0⟩ := resolve_w1_spec note mod lfo det
  exact fle_fadd_left (by decide) hf (by decide) (by linarith)

/-- CycleOfOneFrame, second clause: oscillator 1 at `-W1`, whose sum with `W1` is 0. -/
theorem witness_CycleOfOneFrame_runs_on (note mod : Byte) (lfo det : F) :
    fle 0x3F800000 (fadd (fneg (resolve note mod lfo det).w1) (resolve note mod lfo det).w1) = false := by
  obtain ⟨hf, -⟩ := resolve_w1_spec note mod lfo det
  obtain ⟨h1, h2⟩ := units_fadd (y := 0x00000000) ((isFinite_fneg _).trans hf) hf (by decide)
    (by rw [units_fneg, neg_add_cancel]; decide)
  rw [← Bool.not_eq_true, fle_iff_units (by decide) h1, h2]
  decide

/-- CycleOfOneFrame, its inner choice where oscillator 1 does not wrap: without detune, oscillator 2 at 1.0 wraps and at `-W2`
does not, whatever `NOTE_HZ` is. -/
theorem witness_CycleOfOneFrame_inner (note mod : Byte) :
    fle 0x3F800000 (fadd 0x3F800000 (resolve note mod 0xBF800000 0x00000000).w2) = true ∧
    fle 0x3F800000 (fadd (fneg (resolve note mod 0xBF800000 0x00000000).w2) (resolve note mod 0xBF800000 0x00000000).w2) = false := by
  obtain ⟨hn, -⟩ := noteHz_spec note mod
  have hone : fadd one (fmul (fmul half 0x00000000) (rescaleLfo 0xBF800000)) = 0x3F800000 := by decide
  obtain ⟨g1, g2⟩ := units_fmul (a := noteHz note mod) (b := 0x3F800000) hn (by decide) hn
    (by rw [show units 0x3F800000 = 2 ^ 149 by decide])
  have hf2 : resolveF2 (noteHz note mod) 0x00000000 (rescaleLfo 0xBF800000) = fmul (noteHz note mod) 0x3F800000 := by
    rw [resolveF2, show flt 0x00000000 0x00000000 = false by decide, if_neg (by simp), detunedDown, hone]
  obtain ⟨hf, h0⟩ := increment_spec (f := resolveF2 (noteHz note mod) 0x00000000 (rescaleLfo 0xBF800000)) (by rw [hf2]; exact g1)
    (by rw [hf2, g2]; exact (units_noteHz_pos note mod).le)
  change isFinite (resolve note mod 0xBF800000 0x00000000).w2 = true at hf
  change 0 ≤ units (resolve note mod 0xBF800000 0x00000000).w2 at h0
  refine ⟨fle_fadd_left (by decide) hf (by decide) (by linarith), ?_⟩
  obtain ⟨h1, h2⟩ := units_fadd (y := 0x00000000) ((isFinite_fneg _).trans hf) hf (by decide)
    (by rw [units_fneg, neg_add_cancel]; decide)
  rw [← Bool.not_eq_true, fle_iff_units (by decide) h1, h2]
  decide

/-- HardSyncForcesPhase2 and Phase2WrapsOnlyAlone: oscillator 1 at exactly 1.0 with sync 1, 0 and 2, and just below 1.0. -/
theorem witness_HardSync :
    (inCycle 1 0x3F400000 0x3F000000 0x3E800000 0x3EC00000).latches = some (increments 0x3E800000 0x3EC00000) ∧
    reachesOne (fadd 0x3F400000 0x3E800000) = true ∧ fadd 0x3F400000 0x3E800000 = 0x3F800000 ∧
    (inCycle 1 0x3F400000 0x3F000000 0x3E800000 0x3EC00000).voice.sync = 1 ∧
    (inCycle 0 0x3F400000 0x3F000000 0x3E800000 0x3EC00000).voice.sync ≠ 1 ∧
    (inCycle 2 0x3F400000 0x3F000000 0x3E800000 0x3EC00000).voice.sync ≠ 1 ∧
    reachesOne (fadd 0x3F3FFFFF 0x3E800000) = false ∧ fadd 0x3F3FFFFF 0x3E800000 = 0x3F7FFFFF := by decide

/-- Phase2WrapsOnlyAlone, where oscillator 1 does not wrap: oscillator 2 at exactly 1.0 and just below. -/
theorem witness_Phase2WrapsOnlyAlone : reachesOne (fadd 0x3F000000 0x3E800000) = false ∧
    reachesOne (fadd 0x3F200000 0x3EC00000) = true ∧ reachesOne (fadd 0x3F1FFFFF 0x3EC00000) = false := by decide

/-- WrapIsExact: 1.0 and the last value below 2^32; the values just outside do not meet the hypotheses. -/
theorem witness_WrapIsExact : (fle 0x3F800000 0x3F800000 = true ∧ flt 0x3F800000 0x4F800000 = true) ∧
    (fle 0x3F800000 0x4F7FFFFF = true ∧ flt 0x4F7FFFFF 0x4F800000 = true) ∧ fle 0x3F800000 0x3F7FFFFF = false ∧
    flt 0x4F800000 0x4F800000 = false := by decide

/-- Phase1StaysInUnit: both ends of the phase and of the increment. -/
theorem witness_Phase1StaysInUnit :
    (inCycle 0 0x3F7FFFFF 0x00000000 0x4EFFFFFF 0x00000000).latches = some (increments 0x4EFFFFFF 0x00000000) ∧
    (inUnit 0x00000000 = true ∧ inUnit 0x3F7FFFFF = true) ∧
    (fle 0x00000000 0x00000000 = true ∧ fle 0x00000000 0x4EFFFFFF = true ∧ flt 0x4EFFFFFF 0x4F000000 = true) := by decide

/-- PhasesNeverNegative: the least and the greatest storable detune, the ends of the LFO, phases 0 and 1.125. -/
theorem witness_PhasesNeverNegative : DetuneStorable 0xBF800000 ∧ DetuneStorable 0x44239666 ∧
    inSample 0xBF800000 = true ∧ inSample 0x3F800000 = true ∧ fle 0x00000000 0x00000000 = true ∧ fle 0x00000000 0x3F900000 = true :=
  ⟨⟨0, by decide⟩, ⟨65535, by decide⟩, by decide, by decide, by decide, by decide⟩

/-- NoTwoWrapsInARow: the greatest phase with the greatest increment the statement admits. -/
theorem witness_NoTwoWrapsInARow :
    (inCycle 0 0x3F7FFFFF 0x00000000 0x3EFFFFF8 0x00000000).latches = some (increments 0x3EFFFFF8 0x00000000) ∧
    inUnit 0x3F7FFFFF = true ∧ fle 0x00000000 0x3EFFFFF8 = true ∧ fle 0x3EFFFFF8 0x3EFFFFF8 = true ∧
    reachesOne (fadd 0x3F7FFFFF 0x3EFFFFF8) = true := by decide

/-- UnwrappedPhase2LastsOneStep: every quantity at the end of its range. -/
theorem witness_UnwrappedPhase2LastsOneStep :
    (inCycle 0 0x3F7FFFFF 0x3FFFFFFF 0x3EFFFFF8 0x3F7FFFFF).latches = some (increments 0x3EFFFFF8 0x3F7FFFFF) ∧
    inUnit 0x3F7FFFFF = true ∧ fle 0x00000000 0x3FFFFFFF = true ∧ flt 0x3FFFFFFF 0x40000000 = true ∧
    fle 0x00000000 0x3EFFFFF8 = true ∧ fle 0x3EFFFFF8 0x3EFFFFF8 = true ∧ fle 0x00000000 0x3F7FFFFF = true ∧
    flt 0x3F7FFFFF 0x3F800000 = true := by decide

/-- CycleWritesExactlyFrames: a CYCLE of two frames writes slots 0 and 1 and not 2. -/
theorem witness_CycleWritesExactlyFrames : ∃ t ys, exec (.cycle 88 0 0 2) (rest (triangles 0 0 0)) = .next t ∧
    ys = [sampleOut (triangles 0 0 0) (rest (triangles 0 0 0)).noiseDraw, (t.outRead 1).getD 0] ∧ ys[1]? = t.outRead 1 ∧ t.outRead 2 = none ∧ 2 ≤ 2 :=
  ⟨_, _, rfl, rfl, rfl, rfl, le_refl 2⟩

/-- CycleSplitsIntoTwo: nothing and everything, and the two frames of 95 P7 twice. -/
theorem witness_CycleSplitsIntoTwo : (0 : Word).toNat + (0xFFFFFFFF : Word).toNat < 2 ^ 32 ∧
    (0xFFFFFFFF : Word).toNat + (0 : Word).toNat < 2 ^ 32 ∧ (2 : Word).toNat + (2 : Word).toNat < 2 ^ 32 ∧
    1 < (2 : Word).toNat := by decide

/-- RegisterAndOutputWriters: a PARAM.BAL completes and is neither INIT nor CYCLE nor a write of another register. -/
theorem witness_RegisterAndOutputWriters : ∃ t, exec (.paramBal 50) (rest voiceP1) = .next t ∧
    (∀ p a, Instr.paramBal 50 ≠ .init p a) ∧ (∀ v, Instr.paramBal 50 ≠ .paramWf1 v) ∧ (∀ v, Instr.paramBal 50 ≠ .paramWf2 v) ∧
    (∀ v, Instr.paramBal 50 ≠ .paramSync v) ∧ (∀ v, Instr.paramBal 50 ≠ .paramDet v) ∧
    (∀ v, Instr.paramDet 50 ≠ .paramBal v) ∧ (∀ note mod lfo frames, Instr.paramBal 50 ≠ .cycle note mod lfo frames) :=
  ⟨_, rfl, nofun, nofun, nofun, nofun, nofun, nofun, nofun⟩

/-- BalanceExtremesPassOneOscillator: the least and the greatest finite sample. -/
theorem witness_BalanceExtremesPassOneOscillator : isFinite 0xFF7FFFFF = true ∧ isFinite 0x7F7FFFFF = true := by decide

/-- MixStaysInSampleRange: balance 0 and 1, samples -1 and 1. -/
theorem witness_MixStaysInSampleRange : (fle 0x00000000 0x00000000 = true ∧ fle 0x00000000 0x3F800000 = true) ∧
    (fle 0x00000000 0x3F800000 = true ∧ fle 0x3F800000 0x3F800000 = true) ∧ inSample 0xBF800000 = true ∧
    inSample 0x3F800000 = true := by decide

/-- ToFixedTruncatesAndSaturates: the greatest finite value, the greatest below 1.0, and the least subnormal. -/
theorem witness_ToFixedTruncatesAndSaturates : isFinite 0x7F7FFFFF = true ∧ isFinite 0x3F7FFFFF = true ∧
    isFinite 0x80000001 = true ∧ isFinite 0x7F800000 = false := by decide

/-- OperationsRoundToNearestEven: finite operands on both sides of the overflow bound of each operation, which the greatest
finite value and half its last place just reach; divisors of either sign; zero sums of both signs. -/
theorem witness_OperationsRoundToNearestEven :
    (isFinite 0x7F7FFFFF = true ∧ isFinite 0x73000000 = true ∧ isFinite 0x72FFFFFF = true ∧ isFinite 0x80000001 = true) ∧
    (2 ^ 25 - 1) * 2 ^ 252 * ((1 : Nat) : Int) ≤ |units 0x7F7FFFFF + units 0x73000000| ∧
    |units 0x7F7FFFFF + units 0x72FFFFFF| < (2 ^ 25 - 1) * 2 ^ 252 * ((1 : Nat) : Int) ∧
    (2 ^ 25 - 1) * 2 ^ 252 * ((1 : Nat) : Int) ≤ |units 0xFF7FFFFF - units 0x73000000| ∧
    |units 0xFF7FFFFF - units 0x72FFFFFF| < (2 ^ 25 - 1) * 2 ^ 252 * ((1 : Nat) : Int) ∧
    (2 ^ 25 - 1) * 2 ^ 252 * ((2 ^ 149 : Nat) : Int) ≤ |units 0x7F7FFFFF * units 0xBF800001| ∧
    |units 0x7F7FFFFF * units 0xBF800000| < (2 ^ 25 - 1) * 2 ^ 252 * ((2 ^ 149 : Nat) : Int) ∧
    (units 0xBF7FFFFF ≠ 0 ∧ units 0xBF800000 ≠ 0) ∧
    (2 ^ 25 - 1) * 2 ^ 252 * (magUnits 0xBF7FFFFF : Int) ≤ |-(2 ^ 149 * units 0x7F7FFFFF)| ∧
    |-(2 ^ 149 * units 0x7F7FFFFF)| < (2 ^ 25 - 1) * 2 ^ 252 * (magUnits 0xBF800000 : Int) ∧
    (units 0x80000000 + units 0x80000000 = 0 ∧ units 0x3F800000 + units 0xBF800000 = 0 ∧ units 0x3F800000 - units 0x3F800000 = 0) := by
  decide

/-- DecodeIsTotalAndWellFormed: for each format a word whose ignored fields are zero, and a word with one that is not. -/
theorem witness_DecodeIsTotalAndWellFormed :
    [(0x0100_0000_12345678_00010001 : CmdWord), 0x0200_3C80_BF000000_00000100, 0x0300_4500_3F800000_00000000,
      0x0400_4500_00000000_00000000, 0x0500_FFFF_0000FFFF_00000000, 0xFF00_0000_00000000_00000000].all ignoredFieldsZero = true ∧
    [(0x01FF_0000_12345678_00010001 : CmdWord), 0x0100_0001_00000000_00000000, 0x0300_4500_3F800000_00000001,
      0x0500_0002_00010032_00000000, 0xFF00_0000_00000000_00000001].any ignoredFieldsZero = false := by decide

/-- DrawsAreSuppliedForTheRun: answers at both ends of their ranges, one more than is used, and each pair of codes. -/
theorem witness_DrawsAreSuppliedForTheRun : ∃ s : State,
    s.random = { phase := 0x00000000 :: 0x3F7FFFFF :: [0x3F000000], noise := 0xBF800000 :: 0x3F800000 :: [0x00000000] } ∧
    (inUnit 0x00000000 = true ∧ inUnit 0x3F7FFFFF = true ∧ inSample 0xBF800000 = true ∧ inSample 0x3F800000 = true) ∧
    s.voice.wf1 = 4 ∧ s.voice.wf2 = 4 ∧ (triangles 0 0 0).wf1 ≠ 4 ∧ (triangles 0 0 0).wf2 ≠ 4 :=
  ⟨{ rest { voiceP1 with wf1 := 4, wf2 := 4 } with
      random := { phase := [0x00000000, 0x3F7FFFFF, 0x3F000000], noise := [0xBF800000, 0x3F800000, 0x00000000] } },
    rfl, by decide, rfl, rfl, by decide, by decide⟩

/-- EngineNeverReadsOutput: a CYCLE of two frames makes transfers to slots 0 and 1 and none to slot 2. -/
theorem witness_EngineNeverReadsOutput : ∃ t, exec (.cycle 88 0 0 2) (rest (triangles 0 0 0)) = .next t ∧
    t.outPort.map (fun x => x.slot.toNat) = [0, 1] := ⟨_, rfl, rfl⟩

/-- NaNLfoReachesPhase2: both NaN signs, one frame and the most frames, sync 0 and 2. -/
theorem witness_NaNLfoReachesPhase2 : isNaN 0x7FC00000 = true ∧ isNaN 0xFF800001 = true ∧ (1 : Word) ≠ 0 ∧
    (0xFFFFFFFF : Word) ≠ 0 ∧ (rest (triangles 0 0 0)).voice.sync ≠ 1 ∧ (rest (triangles 2 0 0)).voice.sync ≠ 1 := by decide

/-- ContractRunsKeepPhases, the other commands: both ends of what is kept, the greatest raw detune allowed, no CYCLE. -/
theorem witness_ContractRunsKeepPhases_commands :
    { voiceP1 with ph1 := 0x3F7FFFFF, ph2 := 0x3F7FFFFF, det := 0xBF800000 }.PhaseInv ∧
    { voiceP1 with ph1 := 0x3EFFFFF8, ph2 := 0x3FFFFFFF, det := 0x3F800000 }.PhaseInv ∧
    (∀ note mod lfo frames, Instr.paramDet 200 ≠ .cycle note mod lfo frames) ∧
    (∀ v, Instr.paramDet 200 = .paramDet v → v.toNat ≤ 200) :=
  ⟨⟨by decide, by decide, by decide, by decide, by decide⟩, ⟨by decide, by decide, by decide, by decide, by decide⟩, nofun,
    fun v h => by cases h; decide⟩

/-- ContractRunsKeepPhases, the sample steps: F1 = 23999.98828125, which gives W1 = 0.5 - 2^-22 exactly, with DET and the LFO at
their upper ends, on phases at the upper ends of their ranges. -/
theorem witness_ContractRunsKeepPhases_samples : ∃ (s : State) (l : Latches), s.latches = some l ∧ s.voice.PhaseInv ∧
    s.voice.ph1 = 0x3EFFFFF8 ∧ s.voice.ph2 = 0x3FFFFFFF ∧ s.voice.det = 0x3F800000 ∧ lfoInContract 0x3F800000 = true ∧
    flt 0x00000000 0x46BB7FFA = true ∧ l.w1 = fdiv 0x46BB7FFA 0x473B8000 ∧
    l.w2 = fdiv (resolveF2 0x46BB7FFA s.voice.det (rescaleLfo 0x3F800000)) 0x473B8000 ∧ fle l.w1 0x3EFFFFF8 = true :=
  ⟨{ rest { voiceP1 with ph1 := 0x3EFFFFF8, ph2 := 0x3FFFFFFF, det := 0x3F800000 } with
      latches := some (increments (fdiv 0x46BB7FFA 0x473B8000)
        (fdiv (resolveF2 0x46BB7FFA 0x3F800000 (rescaleLfo 0x3F800000)) 0x473B8000)) }, _, rfl,
    ⟨by decide, by decide, by decide, by decide, by decide⟩, rfl, rfl, rfl, by decide, by decide, rfl, rfl, by decide⟩

/-- PositiveDetuneTermIsDouble: both ends of each range. -/
theorem witness_PositiveDetuneTermIsDouble : fle 0x21800000 0x21800000 = true ∧ fle 0x21800000 0x44239666 = true ∧
    fle 0x44239666 0x44239666 = true ∧ fle 0x21800000 0x3F800000 = true ∧ fle 0x3F800000 0x3F800000 = true := by decide

end Sys2Proof.Tests
end

section
/-! PROOFS. The scope family: the wrap of a phase (00_scope R9), the one rounding of each operation (R8), TO_FIXED (R12), and the
draws supplied for a run (R7). -/

namespace Sys2Proof.Machine

/-! ## Ties and overflow of the one rounding -/

/-- Where another magnitude is as near to the exact quotient as the rounded one, the rounded pattern is even (R8). -/
theorem roundRaw_even_of_tie {num den b : Nat} (hden : 0 < den) (hne : b ≠ roundRaw num den)
    (htie : |(num : Int) - unitsOfBits (roundRaw num den) * den| = |(num : Int) - unitsOfBits b * den|) :
    roundRaw num den % 2 = 0 := by
  obtain ⟨c, r, d, hnum, hnext, hr, hcase, heven⟩ := roundRaw_spec num den hden
  refine heven ?_
  have hlt : ∀ {i j : Nat}, i < j → unitsOfBits i * den < unitsOfBits j * den := fun h =>
    Nat.mul_lt_mul_of_pos_right (unitsOfBits_lt_iff.mpr h) hden
  have hle : ∀ {i j : Nat}, i ≤ j → unitsOfBits i * den ≤ unitsOfBits j * den := fun h =>
    Nat.mul_le_mul_right den (unitsOfBits_le_iff.mpr h)
  simp only [Int.abs_eq_natAbs] at htie
  rcases hcase with ⟨he, h2⟩ | ⟨he, h2⟩ <;> rw [he] at htie hne
  · rcases Nat.lt_or_gt_of_ne hne with h | h
    · have := hlt h
      omega
    · have : unitsOfBits (c + 1) * den ≤ unitsOfBits b * den := hle h
      omega
  · rcases Nat.lt_or_gt_of_ne hne with h | h
    · have := hle (Nat.le_of_lt_succ h)
      omega
    · have := hlt h
      omega

/-- The least quotient that rounds to infinity lies half a last place above the greatest finite value (R8). -/
theorem roundRaw_lt_inf_iff {num den : Nat} (hden : 0 < den) :
    roundRaw num den < 0x7F800000 ↔ (num : Int) < (2 ^ 25 - 1) * 2 ^ 252 * den := by
  have hmax : unitsOfBits 0x7F7FFFFF = (2 ^ 24 - 1) * 2 ^ 253 := by decide
  have hinf : unitsOfBits 0x7F800000 = 2 ^ 25 * 2 ^ 252 := by decide
  rcases Nat.lt_or_ge num (unitsOfBits 0x7F7FFFFF * den) with hlo | hlo
  · have := roundRaw_le hden hlo.le
    rw [hmax] at hlo
    omega
  rcases Nat.lt_or_ge num (unitsOfBits 0x7F800000 * den) with hhi | hhi
  · obtain ⟨c, r, d, hnum, hnext, hr, hcase, heven⟩ := roundRaw_spec num den hden
    have hc : c = 0x7F7FFFFF := by
      have h1 : 0x7F7FFFFF < c + 1 := unitsOfBits_lt_iff.mp (Nat.lt_of_mul_lt_mul_right (a := den) (by omega))
      have h2 : c < 0x7F800000 := unitsOfBits_lt_iff.mp (Nat.lt_of_mul_lt_mul_right (a := den) (by omega))
      omega
    subst hc
    rw [hmax] at hnum
    rw [hmax, hinf] at hnext
    omega
  · have := le_roundRaw hden hhi
    rw [hinf] at hhi
    omega

/-- `NearestEven` against one rival `v`: the answer `u` is no farther from `num / den`, and where the two differ and are equally
near, the answer's last bit is 0. -/
def NearestEvenAgainst (num : Int) (den : Nat) (lastBit : Nat) (u v : Int) : Prop :=
  |num - den * u| ≤ |num - den * v| ∧ (v ≠ u → |num - den * u| = |num - den * v| → lastBit = 0)

theorem nearestEven_iff_against {num : Int} {den : Nat} {r : F} : NearestEven num den r ↔
    ∀ y : F, isFinite y = true → NearestEvenAgainst num den (r.toNat % 2) (units r) (units y) := Iff.rfl

/-- Rounding to nearest even is symmetric in the sign. -/
theorem NearestEvenAgainst.neg {num : Int} {den lastBit : Nat} {u v : Int} (h : NearestEvenAgainst num den lastBit u v) :
    NearestEvenAgainst (-num) den lastBit (-u) (-v) := by
  have hflip : ∀ w : Int, |-num - den * -w| = |num - den * w| := fun w => by rw [← abs_neg]; congr 1; ring
  rw [NearestEvenAgainst, hflip, hflip, ne_eq, neg_inj]
  exact h

theorem roundRaw_nearestEvenAgainst_bits (num b : Nat) {den : Nat} (hden : 0 < den) :
    NearestEvenAgainst num den (roundRaw num den % 2) (unitsOfBits (roundRaw num den)) (unitsOfBits b) := by
  rw [NearestEvenAgainst]
  simp only [mul_comm (den : Int)]
  exact ⟨roundRaw_nearest num den b hden, fun hne => roundRaw_even_of_tie hden fun h => hne (by rw [h])⟩

/-- A value of the other sign is no rival: it is farther than zero is. -/
theorem roundRaw_nearestEvenAgainst_units (num : Nat) {den : Nat} (hden : 0 < den) (y : F) :
    NearestEvenAgainst num den (roundRaw num den % 2) (unitsOfBits (roundRaw num den)) (units y) := by
  cases hs : signBit y
  · rw [show units y = unitsOfBits (magBits y) by rw [units, hs]; rfl]
    exact roundRaw_nearestEvenAgainst_bits num (magBits y) hden
  · have hy : units y = -(magUnits y : Int) := by rw [units, hs]; rfl
    have hd : (magUnits y : Int) ≤ den * magUnits y := le_mul_of_one_le_left (by positivity) (by exact_mod_cast hden)
    obtain ⟨hle, hzero⟩ := roundRaw_nearestEvenAgainst_bits num 0 hden
    rw [unitsOfBits_zero, Nat.cast_zero, mul_zero, sub_zero, Nat.abs_cast] at hle hzero
    have hfar : |(num : Int) - den * units y| = num + den * magUnits y := by
      rw [hy, mul_neg, sub_neg_eq_add, abs_of_nonneg (by positivity)]
    rw [NearestEvenAgainst, hfar]
    refine ⟨by omega, fun hne htie => hzero ?_ (by omega)⟩
    rwa [show (0 : Int) = units y by omega]

theorem toNat_packF_mod_two (neg : Bool) {b : Nat} (hb : b < 2 ^ 31) : (packF neg b).toNat % 2 = b % 2 := by
  rw [toNat_packF neg hb]
  split <;> omega

/-- A signed quotient, rounded on its magnitude and packed with its sign, is rounded once (R8). -/
theorem roundsTo_packF {neg : Bool} {num den : Nat} {k : Int} (hden : 0 < den)
    (hk : (if neg then -(num : Int) else num) = k) : RoundsTo k den (packF neg (roundBits num den)) := by
  subst hk
  have habs : |if neg then -(num : Int) else num| = num := by cases neg <;> simp
  rw [RoundsTo, habs, ← roundRaw_lt_inf_iff hden, ← not_lt, ← roundRaw_lt_inf_iff hden]
  refine ⟨fun hraw => ?finite, fun hraw => ?infinite⟩
  case finite =>
    have hlt : roundRaw num den < 2 ^ 31 := by omega
    rw [show roundBits num den = roundRaw num den by rw [roundBits_eq]; omega, isFinite_packF neg hlt,
      nearestEven_iff_against, toNat_packF_mod_two neg hlt, units_packF neg hlt]
    refine ⟨decide_eq_true hraw, fun y _ => ?_⟩
    cases neg
    · exact roundRaw_nearestEvenAgainst_units num hden y
    · rw [show units y = -units (fneg y) by rw [units_fneg, neg_neg]]
      exact (roundRaw_nearestEvenAgainst_units num hden (fneg y)).neg
  case infinite =>
    have hpos : 0 < num := by
      rw [roundRaw_lt_inf_iff hden] at hraw
      omega
    have hsign : decide ((if neg then -(num : Int) else num) < 0) = neg := by
      cases neg
      · exact decide_eq_false (by simp)
      · exact decide_eq_true (by simpa using hpos)
    rw [show roundBits num den = 0x7F800000 by rw [roundBits_eq]; omega, infF, hsign]

/-! ## The four operations -/

theorem signBit_rounded (neg : Bool) (num den : Nat) : signBit (packF neg (roundBits num den)) = neg :=
  signBit_packF neg (lt_of_le_of_lt (roundBits_le_inf _ _) (by norm_num))

theorem sumWith_zero_sum {nan a b : F} (ha : isFinite a = true) (hb : isFinite b = true) (h : units a + units b = 0) :
    sumWith nan a b = if signBit a && signBit b then 0x80000000 else 0x00000000 := by
  rw [sumWith_finite ha hb, if_pos h]
  cases signBit a && signBit b <;> decide

theorem roundsTo_sumWith {nan a b : F} (ha : isFinite a = true) (hb : isFinite b = true) :
    RoundsTo (units a + units b) 1 (sumWith nan a b) := by
  rw [sumWith_finite ha hb]
  split
  case isTrue h0 =>
    rw [h0, ← roundBits_exact one_pos (Nat.zero_le _) (show 0 = unitsOfBits 0 * 1 by rw [unitsOfBits_zero])]
    exact roundsTo_packF one_pos (by simp)
  case isFalse => exact roundsTo_packF one_pos (sign_natAbs _)

theorem roundsTo_fmul {a b : F} (ha : isFinite a = true) (hb : isFinite b = true) :
    RoundsTo (units a * units b) (2 ^ 149) (fmul a b) := by
  rw [fmul_finite ha hb]
  exact roundsTo_packF (by positivity) (sign_mul a b)

theorem magUnits_pos_of_units_ne_zero {b : F} (h : units b ≠ 0) : 0 < magUnits b := by
  rw [units] at h
  split at h <;> omega

theorem isZero_of_units_ne_zero {b : F} (h : units b ≠ 0) : isZero b = false := by
  have hpos := magUnits_pos_of_units_ne_zero h
  rw [isZero, decide_eq_false_iff_not]
  intro h0
  rw [magUnits, h0, unitsOfBits_zero] at hpos
  exact lt_irrefl _ hpos

/-- The signed exact quotient, its numerator carrying the divisor's sign. -/
theorem sign_div_of_sign (a b : F) :
    (if signBit a != signBit b then -((2 ^ 149 * magUnits a : Nat) : Int) else (2 ^ 149 * magUnits a : Nat)) =
      if signBit b then -(2 ^ 149 * units a) else 2 ^ 149 * units a := by
  rw [units]
  cases signBit a <;> cases signBit b <;> simp

theorem roundsTo_fdiv {a b : F} (ha : isFinite a = true) (hb : isFinite b = true) (h : units b ≠ 0) :
    RoundsTo (if signBit b then -(2 ^ 149 * units a) else 2 ^ 149 * units a) (magUnits b) (fdiv a b) := by
  rw [fdiv_finite ha hb (isZero_of_units_ne_zero h)]
  exact roundsTo_packF (magUnits_pos_of_units_ne_zero h) (sign_div_of_sign a b)

theorem signBit_fneg (x : F) : signBit (fneg x) = !signBit x := signBit_packF _ (magBits_lt x)

/-- Settles O55: every operation packs a sign and a magnitude rounded once, and `roundsTo_packF` is about those. -/
theorem operationsRoundToNearestEven : Obligations.OperationsRoundToNearestEven := by
  intro a b ha hb
  have hb' : isFinite (fneg b) = true := by rwa [isFinite_fneg]
  have hsub : units a - units b = units a + units (fneg b) := by rw [units_fneg, sub_eq_add_neg]
  refine ⟨roundsTo_sumWith ha hb, sumWith_zero_sum ha hb, ?_, ?_, roundsTo_fmul ha hb, ?_, fun h => ⟨roundsTo_fdiv ha hb h, ?_⟩⟩
  · rw [hsub]
    exact roundsTo_sumWith ha hb'
  · rw [hsub, ← signBit_fneg]
    exact sumWith_zero_sum ha hb'
  · rw [fmul_finite ha hb, signBit_rounded]
  · rw [fdiv_finite ha hb (isZero_of_units_ne_zero h), signBit_rounded]

/-! ## TO_FIXED -/

/-- Settles O54: the clamped value is in the range of a 32-bit word, so writing it there loses nothing. -/
theorem toFixedTruncatesAndSaturates : Obligations.ToFixedTruncatesAndSaturates := by
  refine ⟨fun x hx => ?_, by decide, by decide, by decide⟩
  simp only [toFixed, isNaN_eq_false_of_isFinite hx, isInf_eq_false_of_isFinite hx, Bool.false_eq_true, if_false]
  exact BitVec.toInt_ofInt_eq_self (by norm_num) (by simp [satS32]) (by simp [satS32])

/-! ## The wrap of a phase -/

/-- A significand of 24 bits at an exponent of the format is a finite value. -/
theorem exists_finite_units (k e : Nat) (hk : k < 2 ^ 24) (he : e ≤ 253) :
    ∃ y : F, isFinite y = true ∧ units y = (k * 2 ^ e : Nat) := by
  induction e generalizing k with
  | zero =>
    refine ⟨packF false k, ?_, ?_⟩
    · rw [isFinite_packF _ (by omega), decide_eq_true_eq]; omega
    · rw [units_packF _ (by omega), ← unitsOfBits_at 0 k hk.le (.inl rfl)]; simp
  | succ e ih =>
    by_cases h : k < 2 ^ 23
    · obtain ⟨y, hy, hu⟩ := ih (2 * k) (by omega) (by omega)
      exact ⟨y, hy, by rw [hu]; push_cast; ring⟩
    · refine ⟨packF false (2 ^ 23 * (e + 1) + k), ?_, ?_⟩
      · rw [isFinite_packF _ (by omega), decide_eq_true_eq]; omega
      · rw [units_packF _ (by omega), unitsOfBits_at _ k hk.le (.inr (by omega))]; simp

/-- The whole and the fractional part of a finite value's magnitude are finite values themselves: cutting a significand off
at the binary point leaves at most its 24 bits on either side. -/
theorem exists_finite_integer_and_fraction {x : F} (hx : isFinite x = true) :
    (∃ y : F, isFinite y = true ∧ units y = (magUnits x / 2 ^ 149 * 2 ^ 149 : Nat)) ∧
    (∃ y : F, isFinite y = true ∧ units y = (magUnits x % 2 ^ 149 : Nat)) := by
  have hlt := magBits_lt_of_isFinite hx
  obtain ⟨s, q, hb, hq, hs⟩ := exists_step_significand (magBits x)
  have hm : magUnits x = q * 2 ^ s := by rw [magUnits, hb, unitsOfBits_at s q hq.le hs]
  rw [hm]
  rcases Nat.le_total s 149 with h | h
  · obtain ⟨t, ht⟩ := Nat.exists_eq_add_of_le' h
    have hpow : 2 ^ 149 = 2 ^ t * 2 ^ s := by rw [ht, pow_add]
    constructor
    · rw [hpow, Nat.mul_div_mul_right _ _ (by positivity), ← hpow]
      exact exists_finite_units _ 149 (lt_of_le_of_lt (Nat.div_le_self _ _) hq) (by norm_num)
    · rw [hpow, Nat.mul_mod_mul_right]
      exact exists_finite_units _ s (lt_of_le_of_lt (Nat.mod_le _ _) hq) (by omega)
  · have hdvd : 2 ^ 149 ∣ q * 2 ^ s := Dvd.dvd.mul_left (pow_dvd_pow 2 h) q
    constructor
    · rw [Nat.div_mul_cancel hdvd]
      exact exists_finite_units q s hq (by omega)
    · rw [Nat.mod_eq_zero_of_dvd hdvd]
      exact ⟨0x00000000, by decide, by decide⟩

/-- Where the integer part is defined, subtracting it leaves exactly the fractional part (R9, 43_cycle R174). -/
theorem units_wrapPhase {k : Nat} {x : F} (hx : isFinite x = true) (hdef : ipartDefined x = true) (hpos : 0 < units x) :
    isFinite (wrapPhase k x) = true ∧ units (wrapPhase k x) = units x % 2 ^ 149 := by
  obtain ⟨⟨y, hy, hyu⟩, z, hz, hzu⟩ := exists_finite_integer_and_fraction hx
  have hxu : units x = magUnits x := (magUnits_of_pos hpos).2.symm
  have hi : isFinite (i2f (ipart k x).toNat) = true ∧ units (i2f (ipart k x).toNat) = units y :=
    units_i2f hy (by rw [(ipart_of_defined hdef).1, hyu]; push_cast; rfl)
  have hw := units_fsub hx hi.1 hz (by rw [hi.2, hxu, hyu, hzu]; omega)
  exact ⟨hw.1, by rw [wrapPhase, hw.2, hzu, hxu]; push_cast; rfl⟩

/-- A finite value is in the phase range exactly when its exact value is. -/
theorem inUnit_iff_units {x : F} (hx : isFinite x = true) : inUnit x = true ↔ 0 ≤ units x ∧ units x < 2 ^ 149 := by
  rw [inUnit, Bool.and_eq_true, fle_iff_units (by decide) hx, flt_iff_units hx (by decide),
    show units 0x00000000 = 0 by decide, show units 0x3F800000 = 2 ^ 149 by decide]

theorem fle_of_flt {a b : F} (h : flt a b = true) : fle a b = true := by
  simp [flt, fle] at h ⊢
  exact ⟨h.1, h.2.le⟩

/-- A phase that has reached 1 and not 2^32 as an exact value; the integer part is defined on it (R9). -/
theorem ipartDefined_of_reachesOne {x : F} (h1 : fle 0x3F800000 x = true) (h2 : flt x 0x4F800000 = true) :
    isFinite x = true ∧ 2 ^ 149 ≤ units x ∧ ipartDefined x = true := by
  have hx := isFinite_of_between (by decide) (by decide) h1 (fle_of_flt h2)
  rw [fle_iff_units (by decide) hx, show units 0x3F800000 = 2 ^ 149 by decide] at h1
  rw [flt_iff_units hx (by decide), show units 0x4F800000 = 2 ^ 181 by decide] at h2
  obtain ⟨hs, hm⟩ := magUnits_of_pos (show 0 < units x by omega)
  have hlt : magUnits x < 2 ^ 181 := by omega
  exact ⟨hx, h1, by rw [ipartDefined, hs, decide_eq_true (magBits_lt_of_isFinite hx), decide_eq_true hlt]; rfl⟩

/-- Settles O43: both the integer part and the remainder fit the significand, so neither the conversion nor the subtraction
rounds. -/
theorem wrapIsExact : Obligations.WrapIsExact := by
  refine ⟨fun k x h1 h2 => ?_, fun k => ?_⟩
  · obtain ⟨hx, hone, hdef⟩ := ipartDefined_of_reachesOne h1 h2
    obtain ⟨hw, hu⟩ := units_wrapPhase (k := k) hx hdef (by omega)
    exact ⟨hw, hu, (inUnit_iff_units hw).mpr (by omega)⟩
  · have hi : ipart k 0x3F800000 = 1 := if_pos (by decide)
    rw [wrapPhase, hi]
    decide

/-! ## Draws -/

theorem phaseDraw_of_supplied {s : State} {k : Nat} {p : F} (h : s.random.phase[k]? = some p) (hp : inUnit p = true) :
    s.phaseDraw k = p := by
  rw [State.phaseDraw, h]
  exact drawIn_some hp _

theorem noiseDraw_of_supplied {s : State} {k : Nat} {d : F} (h : s.random.noise[k]? = some d) (hd : inSample d = true) :
    s.noiseDraw k = d := by
  rw [State.noiseDraw, h]
  exact drawIn_some hd _

/-- A CYCLE of one frame writes the sample of the phases and draws it starts with to slot 0, and uses up an answer of the
noise port for each code of 4 (40_waveform R108, 43_cycle R163 to R165). -/
theorem exec_cycle_one (note mod : Byte) (lfo : F) (s : State) :
    ∃ t, exec (.cycle note mod lfo 1) s = .next t ∧ t.outRead 0 = some (sampleOut s.voice s.noiseDraw) ∧
      t.random = { s.random with noise := s.random.noise.drop (noiseUse s.voice.wf1 + noiseUse s.voice.wf2) } :=
  ⟨retire (sampleStepWith (resolve note mod lfo s.voice.det) (cycleStart note mod lfo s)), rfl,
    Memory.read_write_same s.out 0 _, rfl⟩

/-- Code 4 selects the draw, whatever the phase (40_waveform R108). -/
theorem sel_of_eq_four {code : Half} (h : code = 4) (d p : F) : sel d code p = d := by rw [h]; rfl

theorem noiseUse_of_eq_four {code : Half} (h : code = 4) : noiseUse code = 1 := if_pos h

theorem noiseUse_of_ne_four {code : Half} (h : code ≠ 4) : noiseUse code = 0 := if_neg h

/-- Settles O59: a supplied answer in range is the draw (`drawIn_some`), and `noiseUse` says which answers are used. -/
theorem drawsAreSuppliedForTheRun : Obligations.DrawsAreSuppliedForTheRun := by
  refine ⟨fun s platformId apiVersion p q ps h hp hq => ?_, fun s note mod lfo d e ds h hd he => ?_⟩
  · exact ⟨_, rfl, phaseDraw_of_supplied (by simp [h]) hp, phaseDraw_of_supplied (by simp [h]) hq, by simp [h]⟩
  · obtain ⟨t, ht, hout, hrandom⟩ := exec_cycle_one note mod lfo s
    have h0 : s.noiseDraw 0 = d := noiseDraw_of_supplied (by simp [h]) hd
    have h1 : s.noiseDraw 1 = e := noiseDraw_of_supplied (by simp [h]) he
    simp only [sampleOut, h0] at hout
    refine ⟨t, ht, fun hw1 hw2 => ?both, fun hw1 hw2 => ?first, fun hw1 hw2 => ?second, fun hw1 hw2 => ?neither⟩
    case both =>
      simp [hout, hrandom, h, h1, sel_of_eq_four hw1, sel_of_eq_four hw2, noiseUse_of_eq_four hw1, noiseUse_of_eq_four hw2]
    case first =>
      simp [hout, hrandom, h, h1, sel_of_eq_four hw1, noiseUse_of_eq_four hw1, noiseUse_of_ne_four hw2]
    case second =>
      simp [hout, hrandom, h, h0, sel_of_eq_four hw2, noiseUse_of_ne_four hw1, noiseUse_of_eq_four hw2]
    case neither => simp [hrandom, noiseUse_of_ne_four hw1, noiseUse_of_ne_four hw2]

end Sys2Proof.Machine
end

section
/-! PROOFS. The state family, first part: what a command and a step can do to the state, the invariant of the machine
(10_state R31, 20_memory R50, R57), what the sample loop writes (43_cycle R162, R176), and which command writes what (10_state R28). -/

namespace Sys2Proof.Machine

/-! ## What a command and a step can do -/

/-- The effect of a retired command on the state (00_scope R14): one case for each command that writes
anything, and one for those that have no effect. -/
inductive CommandEffect (s : State) : Instr → State → Prop
  | init (platformId apiVersion : Word) : CommandEffect s (.init platformId apiVersion)
      (usePhaseDraws 2 { s with voice := initVoice (s.phaseDraw 0) (s.phaseDraw 1) })
  | cycle (note mod : Byte) (lfo : F) (frames : Word) : CommandEffect s (.cycle note mod lfo frames)
      (retire (cycleUpTo note mod lfo frames.toNat s))
  | paramWf1 (v : Half) : CommandEffect s (.paramWf1 v) (setWf1 v s)
  | paramWf2 (v : Half) : CommandEffect s (.paramWf2 v) (setWf2 v s)
  | paramBal (v : Half) : CommandEffect s (.paramBal v) (setBal (scaleBalance v) s)
  | paramDet (v : Half) : CommandEffect s (.paramDet v) (setDet (scaleDetune v) s)
  | paramSync (v : Half) : CommandEffect s (.paramSync v) (setSync v s)
  | nothing {i : Instr} (h : exec i s = noEffect s) : CommandEffect s i s

/-- All that a command can do. -/
theorem exec_effect {i : Instr} {s t : State} (h : exec i s = .next t) : CommandEffect s i t := by
  cases i
  case init => cases h; exact .init _ _
  case cycle => cases h; exact .cycle _ _ _ _
  case paramWf1 => cases h; exact .paramWf1 _
  case paramWf2 => cases h; exact .paramWf2 _
  case paramBal => cases h; exact .paramBal _
  case paramDet => cases h; exact .paramDet _
  case paramSync => cases h; exact .paramSync _
  all_goals cases h; exact .nothing rfl

/-- All that a step can do: nothing offered, a command run to retirement, a reset with no command in progress, and a reset during
one (60_exceptions R222, 70_reset R230, R231). -/
theorem step_cases {s t : State} (h : step s = .next t) :
    t = s ∨ (∃ i, exec i (takeInput s) = .next t) ∨ t = hardwareReset (takeInput s) ∨
      ∃ i writes, t = hardwareReset (abandon i writes (takeInput s)) := by
  unfold step at h
  split at h
  · cases h; exact .inl rfl
  · exact .inr (.inl ⟨_, h⟩)
  · cases h; exact .inr (.inr (.inl rfl))
  · cases h; exact .inr (.inr (.inl rfl))
  · cases h; exact .inr (.inr (.inr ⟨_, _, rfl⟩))

/-! ## The sample loop's frame -/

/-- A sample step writes no register but the phases, and takes nothing from the host or the phase draws (43_cycle R160, R176). -/
theorem sampleStep_frame (s : State) :
    (sampleStep s).voice = { s.voice with ph1 := (sampleStep s).voice.ph1, ph2 := (sampleStep s).voice.ph2 } ∧
      (sampleStep s).inputs = s.inputs ∧ (sampleStep s).random.phase = s.random.phase ∧
      (sampleStep s).draws.phase = s.draws.phase := by
  rw [sampleStep]
  split <;> exact ⟨rfl, rfl, rfl, rfl⟩

/-- The same of the loop (R162, R176). -/
theorem sampleSteps_frame (k : Nat) (s : State) :
    (sampleSteps k s).voice = { s.voice with ph1 := (sampleSteps k s).voice.ph1, ph2 := (sampleSteps k s).voice.ph2 } ∧
      (sampleSteps k s).inputs = s.inputs ∧ (sampleSteps k s).random.phase = s.random.phase ∧
      (sampleSteps k s).draws.phase = s.draws.phase := by
  induction k with
  | zero => exact ⟨rfl, rfl, rfl, rfl⟩
  | succ k ih =>
    obtain ⟨hv, hi, hr, hd⟩ := ih
    obtain ⟨hv', hi', hr', hd'⟩ := sampleStep_frame (sampleSteps k s)
    rw [hv] at hv'
    rw [sampleSteps_succ_last]
    exact ⟨hv', hi'.trans hi, hr'.trans hr, hd'.trans hd⟩

/-! ## The invariant of the machine -/

/-- OUT is in canonical form and holds exactly what the output port transferred: what `State.Inv` says of OUT. -/
structure State.OutAgrees (s : State) : Prop where
  wf : Memory.wf s.out = true
  port : ∀ i, s.outRead i = lastWritten s.outPort i

theorem State.Inv.outAgrees {s : State} (h : s.Inv) : s.OutAgrees := ⟨h.out_wf, h.out_port⟩

/-- What does not touch OUT and the output port keeps their agreement. -/
theorem State.OutAgrees.congr {s t : State} (h : s.OutAgrees) (hout : t.out = s.out) (hport : t.outPort = s.outPort) :
    t.OutAgrees :=
  ⟨by rw [hout, h.wf], fun i => by rw [State.outRead, hout, hport]; exact h.port i⟩

/-- The invariant from its parts: OUT and the output port as in a state where they agree, and storable BAL and DET. -/
theorem State.OutAgrees.inv {s t : State} (h : s.OutAgrees) (hout : t.out = s.out) (hport : t.outPort = s.outPort)
    (hl : t.latches = none) (hbal : BalanceStorable t.voice.bal) (hdet : DetuneStorable t.voice.det) : t.Inv :=
  have h' := h.congr hout hport
  ⟨hl, h'.wf, h'.port, hbal, hdet⟩

/-- A write goes to OUT and to the output port alike (20_memory R50, R57). -/
theorem outWrite_outAgrees {s : State} (h : s.OutAgrees) (i : Word) (v : Sample) : (outWrite i v s).OutAgrees := by
  obtain ⟨hsame, hother, hport, -⟩ := outWrite_spec i v s
  refine ⟨outWrite_wf h.wf, fun j => ?_⟩
  rw [hport, lastWritten_append]
  split
  case isTrue hj => rw [← hj, hsame]
  case isFalse hj => rw [hother j (Ne.symm hj), h.port]

theorem sampleStep_outAgrees {s : State} (h : s.OutAgrees) : (sampleStep s).OutAgrees := by
  rw [sampleStep]
  split
  · exact h
  · rename_i l _
    exact (outWrite_outAgrees h l.n (sampleOut s.voice s.noiseDraw)).congr rfl rfl

theorem cycleUpTo_outAgrees {s : State} (h : s.OutAgrees) (note mod : Byte) (lfo : F) (k : Nat) :
    (cycleUpTo note mod lfo k s).OutAgrees :=
  have hstart : (cycleStart note mod lfo s).OutAgrees := h.congr rfl rfl
  sampleSteps_induct (P := State.OutAgrees) (fun _ => sampleStep_outAgrees) hstart k

theorem abandon_outAgrees {s : State} (h : s.OutAgrees) (i : Instr) (writes : Nat) : (abandon i writes s).OutAgrees := by
  unfold abandon
  split
  · exact cycleUpTo_outAgrees h _ _ _ _
  · exact h

theorem balanceStorable_zero : BalanceStorable 0x00000000 := ⟨0, by decide⟩

theorem balanceStorable_half : BalanceStorable half := ⟨50, by decide⟩

theorem detuneStorable_zero : DetuneStorable 0x00000000 := ⟨100, by decide⟩

theorem detuneStorable_half : DetuneStorable half := ⟨150, by decide⟩

/-- A reset leaves the latches none, and in BAL and DET the model's zeros, which a PARAM can store (log entry 1). -/
theorem hardwareReset_inv {s : State} (h : s.OutAgrees) : (hardwareReset s).Inv :=
  h.inv rfl rfl rfl balanceStorable_zero detuneStorable_zero

/-- Every command keeps the invariant: CYCLE writes OUT through `outWrite` alone, PARAM and INIT write storable values. -/
theorem exec_inv {i : Instr} {s t : State} (hs : s.Inv) (h : exec i s = .next t) : t.Inv := by
  have ho := hs.outAgrees
  cases exec_effect h with
  | init => exact ho.inv rfl rfl hs.latches balanceStorable_half detuneStorable_half
  | cycle note mod lfo frames =>
    obtain ⟨hv, -⟩ := sampleSteps_frame frames.toNat (cycleStart note mod lfo s)
    refine (cycleUpTo_outAgrees ho note mod lfo frames.toNat).inv rfl rfl rfl ?_ ?_ <;>
      rw [retire_voice, cycleUpTo, hv]
    · exact hs.bal
    · exact hs.det
  | paramBal v => exact ho.inv rfl rfl hs.latches ⟨v, rfl⟩ hs.det
  | paramDet v => exact ho.inv rfl rfl hs.latches hs.bal ⟨v, rfl⟩
  | paramWf1 => exact ho.inv rfl rfl hs.latches hs.bal hs.det
  | paramWf2 => exact ho.inv rfl rfl hs.latches hs.bal hs.det
  | paramSync => exact ho.inv rfl rfl hs.latches hs.bal hs.det
  | nothing => exact hs

/-- Settles O10, by the cases of a step: a command keeps the invariant, and a reset restores it from the agreement of OUT with the
output port, which an abandoned CYCLE keeps. -/
theorem stepKeepsInvariant : Obligations.StepKeepsInvariant := by
  intro s t hs h
  have htake : (takeInput s).Inv := hs.outAgrees.inv rfl rfl hs.latches hs.bal hs.det
  obtain rfl | ⟨i, hi⟩ | rfl | ⟨i, writes, rfl⟩ := step_cases h
  · exact hs
  · exact exec_inv htake hi
  · exact hardwareReset_inv htake.outAgrees
  · exact hardwareReset_inv (abandon_outAgrees htake.outAgrees i writes)

/-- Settles O11: the state after reset is what a reset makes of it, and its OUT and output port are both empty. -/
theorem resetMeetsInvariant : Obligations.ResetMeetsInvariant :=
  hardwareReset_inv (s := State.reset) ⟨reset_out_wf, fun _ => rfl⟩

/-- Settles O12, by the fields of `State.reset`. -/
theorem resetLeavesEngineIdle : Obligations.ResetLeavesEngineIdle :=
  ⟨rfl, rfl, fun _ => rfl, rfl, rfl⟩

/-! ## Which command writes what -/

/-- Settles O51, by the effect of each command: a command is a writer of what its effect updates. -/
theorem registerAndOutputWriters : Obligations.RegisterAndOutputWriters := by
  intro i s t h
  cases exec_effect h with
  | cycle note mod lfo frames =>
    obtain ⟨hv, hi, hr, -⟩ := sampleSteps_frame frames.toNat (cycleStart note mod lfo s)
    simp only [retire_voice, retire_inputs, retire_random, cycleUpTo]
    rw [hv]
    exact ⟨fun _ => ⟨fun _ => rfl, fun _ => rfl, fun _ => rfl, fun _ => rfl, fun _ => rfl,
      fun hne => absurd rfl (hne note mod lfo frames)⟩, fun hne => absurd rfl (hne note mod lfo frames), fun _ => hr,
      fun hne => absurd rfl (hne note mod lfo frames), hi⟩
  | init => simp [State.outRead]
  | paramWf1 => simp [State.outRead]
  | paramWf2 => simp [State.outRead]
  | paramBal => simp [State.outRead]
  | paramDet => simp [State.outRead]
  | paramSync => simp [State.outRead]
  | nothing => simp

/-! ## What the sample loop writes -/

/-- The sample that the step after `i` sample steps writes. -/
def nthSample (s : State) (i : Nat) : Sample := sampleOut (sampleSteps i s).voice (sampleSteps i s).noiseDraw

section
variable {s : State} {l : Latches} (hl : s.latches = some l) (hn : l.n = 0)
include hl hn

/-- The last of `k + 1` sample steps: `N` is `k` by then. -/
theorem sampleSteps_succ_eq (k : Nat) : ∃ l' : Latches, l'.n = BitVec.ofNat 32 k ∧
    sampleSteps (k + 1) s = sampleStepWith l' (sampleSteps k s) := by
  refine ⟨_, ?_, by rw [sampleSteps_succ_last, sampleStep_of_latches (sampleSteps_latches hl k)]⟩
  simp [hn]

/-- The samples go out in ascending slot order (20_memory R57, R59). -/
theorem sampleSteps_outPort (k : Nat) : (sampleSteps k s).outPort =
    s.outPort ++ (List.range k).map fun i => { slot := BitVec.ofNat 32 i, data := nthSample s i } := by
  induction k with
  | zero => simp [sampleSteps]
  | succ k ih =>
    obtain ⟨l', hn', hk⟩ := sampleSteps_succ_eq hl hn k
    rw [hk, sampleStepWith_outPort, ih, hn', List.range_succ, List.map_append, List.append_assoc]
    rfl

/-- Each slot below `k` holds its sample, every other slot what it held (20_memory R51, R56). -/
theorem sampleSteps_outRead (i : Nat) {k : Nat} (hk : k ≤ 2 ^ 32) :
    (sampleSteps k s).outRead i = if i < k then some (nthSample s i) else s.outRead i := by
  induction k with
  | zero => rfl
  | succ k ih =>
    obtain ⟨l', hn', hstep⟩ := sampleSteps_succ_eq hl hn k
    have hslot : l'.n.toNat = k := by rw [hn', BitVec.toNat_ofNat, Nat.mod_eq_of_lt (by omega)]
    rw [State.outRead, hstep, sampleStepWith_out, hslot]
    rcases eq_or_ne i k with rfl | hne
    · rw [Memory.read_write_same, if_pos (by omega)]; rfl
    · rw [Memory.read_write_other _ _ hne, ← State.outRead, ih (by omega)]
      simp only [show i < k + 1 ↔ i < k by omega]

/-- Each oscillator on noise uses one draw and its answer a sample (40_waveform R108). -/
theorem sampleSteps_noise (k : Nat) :
    (sampleSteps k s).random.noise = s.random.noise.drop (k * (noiseUse s.voice.wf1 + noiseUse s.voice.wf2)) ∧
      (sampleSteps k s).draws.noise = s.draws.noise + k * (noiseUse s.voice.wf1 + noiseUse s.voice.wf2) := by
  induction k with
  | zero => simp [sampleSteps]
  | succ k ih =>
    obtain ⟨l', -, hk⟩ := sampleSteps_succ_eq hl hn k
    have hv := (sampleSteps_frame k s).1
    rw [hk, sampleStepWith_random, sampleStepWith_draws, ih.1, ih.2, hv, List.drop_drop, Nat.succ_mul, Nat.add_assoc]
    exact ⟨rfl, rfl⟩

end

/-- Settles O48: the samples are those of the `frames` steps of the loop, in order. -/
theorem cycleWritesExactlyFrames : Obligations.CycleWritesExactlyFrames := by
  intro s note mod lfo frames
  set c := cycleStart note mod lfo s
  have hl : c.latches = some (resolve note mod lfo s.voice.det) := rfl
  obtain ⟨hv, hinputs, hphase, hphases⟩ := sampleSteps_frame frames.toNat c
  obtain ⟨hnoise, hnoises⟩ := sampleSteps_noise hl rfl frames.toNat
  have hread := fun i => sampleSteps_outRead hl rfl i frames.isLt.le
  refine ⟨retire (sampleSteps frames.toNat c), (List.range frames.toNat).map (nthSample c), rfl, by simp, ?port,
    fun i y hy => ?low, fun i hle => ?high, hv, rfl, hinputs, hphase, hnoise, hphases, hnoises⟩
  case port =>
    rw [retire_outPort, sampleSteps_outPort hl rfl]
    congr 1
    apply List.ext_getElem <;> simp
  case low =>
    obtain ⟨hlt, rfl⟩ := List.getElem?_eq_some_iff.mp hy
    rw [List.length_map, List.length_range] at hlt
    rw [List.getElem_map, List.getElem_range]
    exact (hread i).trans (if_pos hlt)
  case high => exact (hread i).trans (if_neg (by omega))

end Sys2Proof.Machine
end

section
/-! PROOFS. The state family, second part: the ranges of the registers. What a PARAM stores in BAL and DET (10_state R26, R27), and the
phases through a CYCLE (R24, R25, 43_cycle R173). -/

namespace Sys2Proof.Machine

/-! ## Bounds as exact values -/

theorem units_zero : units 0x00000000 = 0 := by decide

theorem units_one : units 0x3F800000 = 2 ^ 149 := by decide

/-- A value between two finite ones, read as an exact value. -/
theorem units_between {a x b : F} (ha : isFinite a = true) (hb : isFinite b = true) (h1 : fle a x = true)
    (h2 : fle x b = true) : isFinite x = true ∧ units a ≤ units x ∧ units x ≤ units b :=
  have hx := isFinite_of_between ha hb h1 h2
  ⟨hx, (fle_iff_units ha hx).mp h1, (fle_iff_units hx hb).mp h2⟩

theorem fle_trans {a b c : F} (h1 : fle a b = true) (h2 : fle b c = true) : fle a c = true := by
  simp only [fle, Bool.and_eq_true, decide_eq_true_eq] at h1 h2 ⊢
  obtain ⟨⟨ha, -⟩, hab⟩ := h1
  obtain ⟨⟨-, hc⟩, hbc⟩ := h2
  exact ⟨⟨ha, hc⟩, hab.trans hbc⟩

theorem fle_zero_iff_units {x : F} (hx : isFinite x = true) : fle 0x00000000 x = true ↔ 0 ≤ units x := by
  rw [fle_iff_units (by decide) hx, units_zero]

/-- A value that is not below zero is finite or the positive infinity. -/
theorem finite_or_inf_of_nonneg {x : F} (h : fle 0x00000000 x = true) :
    isFinite x = true ∧ 0 ≤ units x ∨ x = 0x7F800000 := by
  by_cases hx : isFinite x = true
  · exact .inl ⟨hx, (fle_zero_iff_units hx).mp h⟩
  · right
    have hkey : 0 ≤ orderKey x := by simp [fle] at h; exact h.2
    have hnan : magBits x ≤ 0x7F800000 := by simp [fle, isNaN] at h; omega
    have hmag : magBits x = 0x7F800000 := by simp [isFinite] at hx; omega
    have hsign : signBit x = false := by
      rw [← Bool.not_eq_true]
      intro hs
      rw [orderKey, if_pos hs] at hkey
      omega
    rw [← packF_signBit_magBits x, hsign, hmag]
    decide

/-! ## Conversion of integers -/

theorem sign_i2f (k : Int) :
    (if decide (k < 0) then -((2 ^ 149 * k.natAbs : Nat) : Int) else (2 ^ 149 * k.natAbs : Nat)) = k * 2 ^ 149 := by
  by_cases h : k < 0
  · rw [decide_eq_true h, if_pos rfl]; omega
  · rw [decide_eq_false h, if_neg (by simp)]; omega

theorem fle_i2f_right {k : Int} {y : F} (hy : isFinite y = true) (h : k * 2 ^ 149 ≤ units y) : fle (i2f k) y = true :=
  fle_rounded_right one_pos hy (by rw [sign_i2f]; simpa using h)

theorem fle_i2f_left {k : Int} {y : F} (hy : isFinite y = true) (h : units y ≤ k * 2 ^ 149) : fle y (i2f k) = true :=
  fle_rounded_left one_pos hy (by rw [sign_i2f]; simpa using h)

/-- An integer that fits the significand is converted exactly (00_scope R8). -/
theorem units_i2f_of_natAbs_lt {k : Int} (hk : k.natAbs < 2 ^ 24) : isFinite (i2f k) = true ∧ units (i2f k) = k * 2 ^ 149 := by
  obtain ⟨y, hy, hu⟩ := exists_finite_units k.natAbs 149 hk (by norm_num)
  obtain ⟨z, hz, hzu⟩ : ∃ z : F, isFinite z = true ∧ units z = k * 2 ^ 149 := by
    rcases Int.natAbs_eq k with h | h
    · exact ⟨y, hy, by rw [hu, Nat.cast_mul, ← h]; rfl⟩
    · exact ⟨fneg y, by rw [isFinite_fneg, hy], by rw [units_fneg, hu, Nat.cast_mul, ← neg_mul, ← h]; rfl⟩
  rw [← hzu]
  exact units_i2f hz hzu.symm

/-- A `u32` converts to a value from 0 to 2^32: the greatest rounds up to 2^32. -/
theorem units_i2f_word (n : Word) : isFinite (i2f n.toNat) = true ∧ units (i2f n.toNat) ≤ 2 ^ 181 := by
  have hn : (n.toNat : Int) < 2 ^ 32 := by exact_mod_cast n.isLt
  have hu : units 0x4F800000 = 2 ^ 181 := by decide
  have hlo : fle 0x00000000 (i2f n.toNat) = true := fle_i2f_left (by decide) (by rw [units_zero]; omega)
  have hhi : fle (i2f n.toNat) 0x4F800000 = true := fle_i2f_right (by decide) (by rw [hu]; omega)
  obtain ⟨hf, -, hle⟩ := units_between (by decide) (by decide) hlo hhi
  exact ⟨hf, hu ▸ hle⟩

/-! ## The values a PARAM stores -/

theorem units_hundred : units hundred = 100 * 2 ^ 149 := by decide

/-- Hundredths of an integer that converts exactly: bounded as the exact quotient is. -/
theorem fle_hundredths_left {k : Int} {y : F} (hk : k.natAbs < 2 ^ 24) (hy : isFinite y = true)
    (h : units y * 100 ≤ k * 2 ^ 149) : fle y (fdiv (i2f k) hundred) = true := by
  obtain ⟨hf, hu⟩ := units_i2f_of_natAbs_lt hk
  refine fle_fdiv_left hf (by decide) (by decide) hy ?_
  rw [hu, units_hundred, ← mul_assoc]
  exact mul_le_mul_of_nonneg_right h (by positivity)

theorem fle_hundredths_right {k : Int} {y : F} (hk : k.natAbs < 2 ^ 24) (hy : isFinite y = true)
    (h : k * 2 ^ 149 ≤ units y * 100) : fle (fdiv (i2f k) hundred) y = true := by
  obtain ⟨hf, hu⟩ := units_i2f_of_natAbs_lt hk
  refine fle_fdiv_right hf (by decide) (by decide) hy ?_
  rw [hu, units_hundred, ← mul_assoc]
  exact mul_le_mul_of_nonneg_right h (by positivity)

/-- A storable balance is not negative and at most 655.35, which rounds down: the last raw value is computed, the one before it
lies below (10_state R26). -/
theorem balanceStorable_range {b : F} (h : BalanceStorable b) : fle 0x00000000 b = true ∧ fle b 0x4423D666 = true := by
  obtain ⟨v, rfl⟩ := h
  have hv := v.isLt
  refine ⟨fle_hundredths_left (by omega) (by decide) (by rw [units_zero]; omega), ?_⟩
  rcases eq_or_ne v 65535 with rfl | hne
  · decide
  · have hlt : v.toNat ≠ 65535 := fun hv => hne (BitVec.eq_of_toNat_eq hv)
    refine fle_hundredths_right (by omega) (by decide) ?_
    rw [show units 0x4423D666 = 10737254 * 2 ^ 135 by decide]
    omega

/-- A storable detune is at least -1 and at most 654.35, which rounds down (R27). -/
theorem detuneStorable_range {d : F} (h : DetuneStorable d) : fle 0xBF800000 d = true ∧ fle d 0x44239666 = true := by
  obtain ⟨v, rfl⟩ := h
  have hv := v.isLt
  refine ⟨fle_hundredths_left (by omega) (by decide) (by rw [show units 0xBF800000 = -2 ^ 149 by decide]; omega), ?_⟩
  rcases eq_or_ne v 65535 with rfl | hne
  · decide
  · have hlt : v.toNat ≠ 65535 := fun hv => hne (BitVec.eq_of_toNat_eq hv)
    refine fle_hundredths_right (by omega) (by decide) ?_
    rw [show units 0x44239666 = 10720870 * 2 ^ 135 by decide]
    omega

/-- Settles O26: the invariant's values are storable, and storable values have these ranges. -/
theorem parameterRegisterRanges : Obligations.ParameterRegisterRanges := by
  intro s hs
  obtain ⟨hd1, hd2⟩ := detuneStorable_range hs.det
  obtain ⟨hb1, hb2⟩ := balanceStorable_range hs.bal
  exact ⟨hd1, hd2, hb1, hb2⟩

/-! ## PH1 through the sample loop -/

theorem inUnit_wrapPhase {x : F} (k : Nat) (h1 : fle 0x3F800000 x = true) (h2 : flt x 0x4F800000 = true) :
    inUnit (wrapPhase k x) = true :=
  (wrapIsExact.1 k x h1 h2).2.2

/-- What has not reached 1 and is not negative is in [0,1). -/
theorem inUnit_of_not_reachesOne {x : F} (hx : isFinite x = true) (h0 : fle 0x00000000 x = true)
    (h1 : reachesOne x = false) : inUnit x = true := by
  rw [reachesOne, ← Bool.not_eq_true, fle_iff_units (by decide) hx, units_one, not_le] at h1
  exact (inUnit_iff_units hx).mpr ⟨(fle_zero_iff_units hx).mp h0, h1⟩

/-- A phase below 1 and an increment below 2^31 add up to less than 2^32, where the integer part is defined (43_cycle R173). -/
theorem fadd_phase_range {p w : F} (hp : inUnit p = true) (hw0 : fle 0x00000000 w = true) (hw : flt w 0x4F000000 = true) :
    isFinite (fadd p w) = true ∧ fle 0x00000000 (fadd p w) = true ∧ flt (fadd p w) 0x4F800000 = true := by
  have hp' := hp
  rw [inUnit, Bool.and_eq_true] at hp'
  have hpf := isFinite_of_between (by decide) (by decide) hp'.1 (fle_of_flt hp'.2)
  obtain ⟨hp0, hp1⟩ := (inUnit_iff_units hpf).mp hp
  obtain ⟨hwf, hwlo, hwhi⟩ := units_between (by decide) (by decide) hw0 (fle_of_flt hw)
  rw [units_zero] at hwlo
  rw [show units 0x4F000000 = 2 ^ 180 by decide] at hwhi
  have hlo : fle 0x00000000 (fadd p w) = true := fle_fadd_left hpf hwf (by decide) (by rw [units_zero]; omega)
  have hmax : units 0x4F000001 = 2 ^ 180 + 2 ^ 157 := by decide
  have hhi : fle (fadd p w) 0x4F000001 = true := fle_fadd_right hpf hwf (by decide) (by rw [hmax]; omega)
  obtain ⟨hf, -, hle⟩ := units_between (by decide) (by decide) hlo hhi
  refine ⟨hf, hlo, (flt_iff_units hf (by decide)).mpr ?_⟩
  rw [hmax] at hle
  rw [show units 0x4F800000 = 2 ^ 181 by decide]
  omega

/-- Step 6 leaves `PH1` in [0,1) where the advanced phase is in the domain of the integer part (R167). -/
theorem inUnit_wrapPolicy_ph1 {a1 : F} (sync : Half) (k : Nat) (a2 : F) (hf : isFinite a1 = true)
    (h0 : fle 0x00000000 a1 = true) (h : flt a1 0x4F800000 = true) : inUnit (wrapPolicy sync k a1 a2).ph1 = true := by
  obtain ⟨h1, -, hw⟩ | ⟨h1, -, hw⟩ | ⟨h1, -, hw⟩ | ⟨h1, -, hw⟩ := wrapPolicy_cases sync k a1 a2 <;> rw [hw]
  · exact inUnit_wrapPhase k h1 h
  · exact inUnit_wrapPhase k h1 h
  · exact inUnit_of_not_reachesOne hf h0 h1
  · exact inUnit_of_not_reachesOne hf h0 h1

/-- Settles O44, by the induction over the loop: the advanced phase is below 2^32, so it is wrapped exactly where it reaches 1. -/
theorem phase1StaysInUnit : Obligations.Phase1StaysInUnit := by
  intro k s l hl hp hw0 hw
  obtain ⟨-, -, -, -, h⟩ := sampleSteps_induct_latches (P := fun _ s => inUnit s.voice.ph1 = true) (w1 := l.w1) (w2 := l.w2)
    (fun l' s _ h1 _ hs => by
      obtain ⟨hf, h0, hlt⟩ := fadd_phase_range hs (h1 ▸ hw0) (h1 ▸ hw)
      exact inUnit_wrapPolicy_ph1 _ _ _ hf h0 hlt)
    hl rfl rfl hp k
  exact h

/-! ## Operations that keep a value from going below zero -/

theorem sumWith_inf_finite (nan : F) {b : F} (hb : isFinite b = true) : sumWith nan 0x7F800000 b = 0x7F800000 := by
  rw [sumWith, isNaN_eq_false_of_isFinite hb, isInf_eq_false_of_isFinite hb, if_neg (by decide), if_pos (by decide)]
  rfl

theorem sumWith_finite_inf (nan : F) {a : F} (ha : isFinite a = true) : sumWith nan a 0x7F800000 = 0x7F800000 := by
  rw [sumWith, isNaN_eq_false_of_isFinite ha, isInf_eq_false_of_isFinite ha, if_neg (by decide), if_neg (by decide),
    if_pos (by decide)]

theorem fadd_nonneg {a b : F} (ha : fle 0x00000000 a = true) (hb : fle 0x00000000 b = true) :
    fle 0x00000000 (fadd a b) = true := by
  obtain ⟨haf, ha0⟩ | rfl := finite_or_inf_of_nonneg ha <;> obtain ⟨hbf, hb0⟩ | rfl := finite_or_inf_of_nonneg hb
  · exact fle_fadd_left haf hbf (by decide) (by rw [units_zero]; omega)
  · rw [fadd, sumWith_finite_inf _ haf]; decide
  · rw [fadd, sumWith_inf_finite _ hbf]; decide
  · decide

theorem fmul_nonneg {a b : F} (ha : isFinite a = true) (hb : isFinite b = true) (ha0 : 0 ≤ units a) (hb0 : 0 ≤ units b) :
    fle 0x00000000 (fmul a b) = true :=
  fle_fmul_left ha hb (by decide) (by rw [units_zero, zero_mul]; positivity)

/-- The increment of a frequency that is not negative is not negative; that of the infinity is the infinity (R161). -/
theorem increment_nonneg {f : F} (hf : fle 0x00000000 f = true) : fle 0x00000000 (fdiv f Config.sampleRate) = true := by
  obtain ⟨hff, hf0⟩ | rfl := finite_or_inf_of_nonneg hf
  · obtain ⟨hw, hw0⟩ := increment_spec hff hf0
    exact (fle_zero_iff_units hw).mpr hw0
  · decide

/-- The wrap never makes a phase negative: below 2^32 it is exact, and from there on no `u32` exceeds the phase (log entry 8). -/
theorem wrapPhase_nonneg {x : F} (k : Nat) (h : reachesOne x = true) : fle 0x00000000 (wrapPhase k x) = true := by
  by_cases hlt : flt x 0x4F800000 = true
  · have hu := inUnit_wrapPhase k h hlt
    rw [inUnit, Bool.and_eq_true] at hu
    exact hu.1
  · obtain ⟨hi, hi1⟩ := units_i2f_word (ipart k x)
    have h0 : fle 0x00000000 x = true := fle_trans (by decide) h
    obtain ⟨hx, -⟩ | rfl := finite_or_inf_of_nonneg h0
    · rw [flt_iff_units hx (by decide), show units 0x4F800000 = 2 ^ 181 by decide] at hlt
      exact fle_fsub_left hx hi (by decide) (by rw [units_zero]; omega)
    · rw [wrapPhase, fsub, sumWith_inf_finite _ (by rwa [isFinite_fneg])]
      decide

/-! ## The second increment (42_pitch_detune R142 to R145) -/

/-- An LFO value in [-1,1] is rescaled into [0,1] (R142, R147). -/
theorem rescaleLfo_range {lfo : F} (h : inSample lfo = true) :
    fle 0x00000000 (rescaleLfo lfo) = true ∧ fle (rescaleLfo lfo) 0x3F800000 = true := by
  rw [inSample, Bool.and_eq_true] at h
  obtain ⟨hf, hlo, hhi⟩ := units_between (by decide) (by decide) h.1 h.2
  rw [show units 0xBF800000 = -2 ^ 149 by decide] at hlo
  rw [units_one] at hhi
  have hone : units one = 2 ^ 149 := units_one
  have hhalf : units half = 2 ^ 148 := by decide
  have h2 : units 0x40000000 = 2 ^ 150 := by decide
  obtain ⟨hsf, hs0, hs2⟩ := units_between (a := 0x00000000) (x := fadd lfo one) (b := 0x40000000) (by decide) (by decide)
    (fle_fadd_left hf (by decide) (by decide) (by rw [units_zero, hone]; omega))
    (fle_fadd_right hf (by decide) (by decide) (by rw [h2, hone]; omega))
  rw [units_zero] at hs0
  rw [h2] at hs2
  exact ⟨fle_fmul_left hsf (by decide) (by decide) (by rw [units_zero, hhalf]; omega),
    fle_fmul_right hsf (by decide) (by decide) (by rw [units_one, hhalf]; omega)⟩

/-- A factor in [0,1] leaves a value in a range around zero there. -/
theorem fmul_range_of_factor {lo hi d u : F} (hlo : isFinite lo = true) (hhi : isFinite hi = true) (hlo0 : units lo ≤ 0)
    (hhi0 : 0 ≤ units hi) (hd1 : fle lo d = true) (hd2 : fle d hi = true) (hu0 : fle 0x00000000 u = true)
    (hu1 : fle u 0x3F800000 = true) : fle lo (fmul d u) = true ∧ fle (fmul d u) hi = true := by
  obtain ⟨hdf, h1, h2⟩ := units_between hlo hhi hd1 hd2
  obtain ⟨huf, h3, h4⟩ := units_between (by decide) (by decide) hu0 hu1
  rw [units_zero] at h3
  rw [units_one] at h4
  constructor
  · refine fle_fmul_left hdf huf hlo ?_
    calc units lo * 2 ^ 149 ≤ units lo * units u := mul_le_mul_of_nonpos_left h4 hlo0
      _ ≤ units d * units u := mul_le_mul_of_nonneg_right h1 h3
  · refine fle_fmul_right hdf huf hhi ?_
    calc units d * units u ≤ units hi * units u := mul_le_mul_of_nonneg_right h2 h3
      _ ≤ units hi * 2 ^ 149 := mul_le_mul_of_nonneg_left h4 hhi0

theorem fmul_comm_of_isFinite {a b : F} (ha : isFinite a = true) (hb : isFinite b = true) : fmul a b = fmul b a := by
  rw [fmul_finite ha hb, fmul_finite hb ha, mul_comm, bne_comm]

/-- The factor that a detune in the storable range puts on the frequency is finite and not negative (R144, R145). -/
theorem detuneFactor_spec {d u : F} (hd1 : fle 0xBF800000 d = true) (hd2 : fle d 0x44239666 = true)
    (hu0 : fle 0x00000000 u = true) (hu1 : fle u 0x3F800000 = true) :
    isFinite (fadd one (fmul d u)) = true ∧ 0 ≤ units (fadd one (fmul d u)) := by
  obtain ⟨h1, h2⟩ := fmul_range_of_factor (by decide) (by decide) (by decide) (by decide) hd1 hd2 hu0 hu1
  obtain ⟨hf, hlo, hhi⟩ := units_between (by decide) (by decide) h1 h2
  rw [show units 0xBF800000 = -2 ^ 149 by decide] at hlo
  rw [show units 0x44239666 = 10720870 * 2 ^ 135 by decide] at hhi
  have hone : units one = 2 ^ 149 := units_one
  have hmax : units 0x44800000 = 2 ^ 159 := by decide
  obtain ⟨hsf, hs0, -⟩ := units_between (a := 0x00000000) (x := fadd one (fmul d u)) (b := 0x44800000) (by decide) (by decide)
    (fle_fadd_left (by decide) hf (by decide) (by rw [units_zero, hone]; omega))
    (fle_fadd_right (by decide) hf (by decide) (by rw [hmax, hone]; omega))
  rw [units_zero] at hs0
  exact ⟨hsf, hs0⟩

/-- `F2` is not negative within the LFO contract, whatever the storable detune and the frequency (R143 to R145, R147). -/
theorem resolveF2_nonneg {f1 det lfo : F} (hf : isFinite f1 = true) (hf0 : 0 ≤ units f1) (hdet : DetuneStorable det)
    (hlfo : inSample lfo = true) : fle 0x00000000 (resolveF2 f1 det (rescaleLfo lfo)) = true := by
  obtain ⟨hd1, hd2⟩ := detuneStorable_range hdet
  obtain ⟨hu0, hu1⟩ := rescaleLfo_range hlfo
  have hdf : isFinite det = true := isFinite_of_between (by decide) (by decide) hd1 hd2
  unfold resolveF2
  split
  · obtain ⟨hg, hg0⟩ := detuneFactor_spec hd1 hd2 hu0 hu1
    exact fmul_nonneg hf hg hf0 hg0
  · obtain ⟨hh1, hh2⟩ := fmul_range_of_factor (u := half) (by decide) (by decide) (by decide) (by decide) hd1 hd2
      (by decide) (by decide)
    rw [fmul_comm_of_isFinite hdf (by decide)] at hh1 hh2
    obtain ⟨hg, hg0⟩ := detuneFactor_spec hh1 hh2 hu0 hu1
    exact fmul_nonneg hf hg hf0 hg0

/-! ## Both phases through a CYCLE -/

/-- Step 6 keeps both phases from going below zero. -/
theorem wrapPolicy_nonneg {a1 a2 : F} (sync : Half) (k : Nat) (h1 : fle 0x00000000 a1 = true) (h2 : fle 0x00000000 a2 = true) :
    fle 0x00000000 (wrapPolicy sync k a1 a2).ph1 = true ∧ fle 0x00000000 (wrapPolicy sync k a1 a2).ph2 = true := by
  obtain ⟨hr, -, hw⟩ | ⟨hr, -, hw⟩ | ⟨-, hr, hw⟩ | ⟨-, -, hw⟩ := wrapPolicy_cases sync k a1 a2 <;> rw [hw]
  · exact ⟨wrapPhase_nonneg k hr, wrapPhase_nonneg k hr⟩
  · exact ⟨wrapPhase_nonneg k hr, h2⟩
  · exact ⟨h1, wrapPhase_nonneg k hr⟩
  · exact ⟨h1, h2⟩

/-- Neither phase is below zero. -/
def Voice.PhasesNonneg (v : Voice) : Prop := fle 0x00000000 v.ph1 = true ∧ fle 0x00000000 v.ph2 = true

/-- With increments that are not negative the sample loop keeps both phases from going below zero. -/
theorem sampleSteps_phasesNonneg {s : State} {l : Latches} (hl : s.latches = some l) (hw1 : fle 0x00000000 l.w1 = true)
    (hw2 : fle 0x00000000 l.w2 = true) (hs : s.voice.PhasesNonneg) (k : Nat) : (sampleSteps k s).voice.PhasesNonneg := by
  obtain ⟨-, -, -, -, h⟩ := sampleSteps_induct_latches (P := fun _ s => s.voice.PhasesNonneg) (w1 := l.w1) (w2 := l.w2)
    (fun l' s _ h1 h2 hs =>
      wrapPolicy_nonneg _ _ (fadd_nonneg hs.1 (h1 ▸ hw1)) (fadd_nonneg hs.2 (h2 ▸ hw2)))
    hl rfl rfl hs k
  exact h

/-- Settles O45: both increments of the resolver are not negative, and the loop keeps the phases so. -/
theorem phasesNeverNegative : Obligations.PhasesNeverNegative := by
  intro s note mod lfo frames hdet hlfo h1 h2
  have hf := (noteHz_spec note mod).1
  have hf0 := (units_noteHz_pos note mod).le
  have hw1 : fle 0x00000000 (resolve note mod lfo s.voice.det).w1 = true :=
    increment_nonneg ((fle_zero_iff_units hf).mpr hf0)
  have hw2 : fle 0x00000000 (resolve note mod lfo s.voice.det).w2 = true :=
    increment_nonneg (resolveF2_nonneg hf hf0 hdet hlfo)
  have hstart : (cycleStart note mod lfo s).voice.PhasesNonneg := ⟨h1, h2⟩
  exact ⟨_, rfl, sampleSteps_phasesNonneg rfl hw1 hw2 hstart frames.toNat⟩

end Sys2Proof.Machine
end

section
/-! PROOFS. The memory family: the engine never reads OUT (20_memory R50), so what OUT holds and what was transferred before have no
effect on any command. -/

namespace Sys2Proof.Machine

/-! ## States that differ in OUT alone -/

/-- `u` is `s` but for what OUT holds and for the transfers made before. -/
def SameButOutput (s u : State) : Prop := ∃ (m : Memory) (ts : List Transfer), u = { s with out := m, outPort := ts }

/-- A sample step takes its sample and its next phases from the Voice State, the latches and the draws alone (43_cycle R163 to R171). -/
theorem sampleStep_sameButOutput {s u : State} (h : SameButOutput s u) : SameButOutput (sampleStep s) (sampleStep u) := by
  obtain ⟨m, ts, rfl⟩ := h
  obtain ⟨voice, latches, out, outPort, inputs, random, draws⟩ := s
  cases latches with
  | none => exact ⟨m, ts, rfl⟩
  | some l => exact ⟨_, _, rfl⟩

theorem sampleSteps_sameButOutput {s u : State} (h : SameButOutput s u) (k : Nat) :
    SameButOutput (sampleSteps k s) (sampleSteps k u) := by
  induction k generalizing s u with
  | zero => exact h
  | succ k ih => exact ih (sampleStep_sameButOutput h)

theorem nthSample_of_sameButOutput {s u : State} (h : SameButOutput s u) (i : Nat) : nthSample u i = nthSample s i := by
  obtain ⟨m, ts, hu⟩ := sampleSteps_sameButOutput h i
  rw [nthSample, hu]
  rfl

/-! ## What a CYCLE transfers -/

/-- The transfers that the first `k` sample steps make (`sampleSteps_outPort`). -/
def newTransfers (s : State) (k : Nat) : List Transfer :=
  (List.range k).map fun i => { slot := BitVec.ofNat 32 i, data := nthSample s i }

/-- They go to the slots below `k`, and to no other (20_memory R51). -/
theorem exists_newTransfers_slot_iff (s : State) {k : Nat} (hk : k ≤ 2 ^ 32) (j : Nat) :
    (∃ x ∈ newTransfers s k, x.slot.toNat = j) ↔ j < k := by
  have hslot : ∀ i < k, (BitVec.ofNat 32 i).toNat = i := fun i hi => by
    rw [BitVec.toNat_ofNat, Nat.mod_eq_of_lt (by omega)]
  constructor
  · rintro ⟨x, hx, rfl⟩
    obtain ⟨i, hi, rfl⟩ := List.mem_map.mp hx
    rw [List.mem_range] at hi
    rwa [hslot i hi]
  · intro hj
    exact ⟨_, List.mem_map.mpr ⟨j, List.mem_range.mpr hj, rfl⟩, hslot j hj⟩

theorem newTransfers_of_sameButOutput {s u : State} (h : SameButOutput s u) (k : Nat) : newTransfers u k = newTransfers s k := by
  rw [newTransfers, funext (nthSample_of_sameButOutput h), newTransfers]

/-- From two states that differ in OUT alone the sample loop makes the same transfers, leaves the slots they go to alike, and every
other slot as it was. -/
theorem sampleSteps_write_alike {s u : State} {l : Latches} (h : SameButOutput s u) (hl : s.latches = some l) (hn : l.n = 0)
    {k : Nat} (hk : k ≤ 2 ^ 32) :
    (sampleSteps k s).outPort = s.outPort ++ newTransfers s k ∧ (sampleSteps k u).outPort = u.outPort ++ newTransfers s k ∧
      (∀ j, (∃ x ∈ newTransfers s k, x.slot.toNat = j) → (sampleSteps k s).outRead j = (sampleSteps k u).outRead j) ∧
      ∀ j, (∀ x ∈ newTransfers s k, x.slot.toNat ≠ j) →
        (sampleSteps k s).outRead j = s.outRead j ∧ (sampleSteps k u).outRead j = u.outRead j := by
  have hlu : u.latches = some l := by obtain ⟨m, ts, rfl⟩ := h; exact hl
  refine ⟨sampleSteps_outPort hl hn k, ?port, fun j hj => ?written, fun j hj => ?kept⟩
  case port => rw [← newTransfers_of_sameButOutput h]; exact sampleSteps_outPort hlu hn k
  case written =>
    have hlt := (exists_newTransfers_slot_iff s hk j).mp hj
    rw [sampleSteps_outRead hl hn j hk, sampleSteps_outRead hlu hn j hk, if_pos hlt, if_pos hlt, nthSample_of_sameButOutput h]
  case kept =>
    have hge : ¬ j < k := fun hlt => by
      obtain ⟨x, hx, hxj⟩ := (exists_newTransfers_slot_iff s hk j).mpr hlt
      exact hj x hx hxj
    rw [sampleSteps_outRead hl hn j hk, sampleSteps_outRead hlu hn j hk, if_neg hge, if_neg hge]
    exact ⟨rfl, rfl⟩

/-! ## Every command -/

/-- A command other than CYCLE neither reads nor writes OUT and the output port (20_memory R51). -/
theorem exec_of_ne_cycle {i : Instr} (hne : ∀ note mod lfo frames, i ≠ .cycle note mod lfo frames) (s : State) (m : Memory)
    (ts : List Transfer) : ∃ t, exec i s = .next t ∧ t.out = s.out ∧ t.outPort = s.outPort ∧
      exec i { s with out := m, outPort := ts } = .next { t with out := m, outPort := ts } := by
  cases i
  case cycle note mod lfo frames => exact absurd rfl (hne note mod lfo frames)
  all_goals exact ⟨_, rfl, rfl, rfl, rfl⟩

/-- Settles O60: a command other than CYCLE does not touch OUT, and the two runs of a CYCLE differ in OUT alone after every sample
step, so that they write the same samples to the same slots. -/
theorem engineNeverReadsOutput : Obligations.EngineNeverReadsOutput := by
  intro i s m ts
  by_cases hc : ∃ note mod lfo frames, i = .cycle note mod lfo frames
  · obtain ⟨note, mod, lfo, frames, rfl⟩ := hc
    have hstart : SameButOutput (cycleStart note mod lfo s) (cycleStart note mod lfo { s with out := m, outPort := ts }) :=
      ⟨m, ts, rfl⟩
    obtain ⟨m', ts', hsame⟩ := sampleSteps_sameButOutput hstart frames.toNat
    refine ⟨_, _, _, rfl, rfl, ?voice, rfl, ?inputs, ?random, ?draws, sampleSteps_write_alike hstart rfl rfl frames.isLt.le⟩
    all_goals simp only [cycleUpTo, hsame, retire_voice, retire_inputs, retire_random, retire_draws]
  · have hne : ∀ note mod lfo frames, i ≠ .cycle note mod lfo frames := fun _ _ _ _ h => hc ⟨_, _, _, _, h⟩
    obtain ⟨t, ht, hout, hport, hu⟩ := exec_of_ne_cycle hne s m ts
    refine ⟨t, _, [], ht, hu, rfl, rfl, rfl, rfl, rfl, by simp [hport], by simp, fun j hj => ?written, fun j _ => ⟨?kept, rfl⟩⟩
    case written => simp at hj
    case kept => rw [State.outRead, hout, State.outRead]

end Sys2Proof.Machine
end

section
/-! PROOFS. The encoding family, first part: the decoder and the encoder (30_encoding R72 to R83). A word is cut into its fields once
(`decodesTo_decode`); what decoder and encoder do to each other is then a case split over the formats of R73. -/

namespace Sys2Proof.Machine

/-! ## Fields -/

@[simp] theorem packWord_fields (w : CmdWord) : packWord (fieldOp w) (fieldRsv w) (fieldA w) (fieldB w) (fieldC w) = w := by
  simp only [packWord, fieldOp, fieldRsv, fieldA, fieldB, fieldC]
  rw [BitVec.extractLsb'_append_extractLsb'_eq_extractLsb' (by rfl),
    BitVec.extractLsb'_append_extractLsb'_eq_extractLsb' (by rfl),
    BitVec.extractLsb'_append_extractLsb'_eq_extractLsb' (by rfl),
    BitVec.extractLsb'_append_extractLsb'_eq_extractLsb' (by rfl), BitVec.extractLsb'_eq_self]

@[simp] theorem noteOf_append_modOf (a : Half) : (noteOf a ++ modOf a : BitVec 16) = a := by
  rw [noteOf, modOf, BitVec.extractLsb'_append_extractLsb'_eq_extractLsb' (by rfl), BitVec.extractLsb'_eq_self]

theorem toNat_zero_append (value : Half) : (0#16 ++ value : BitVec 32).toNat = value.toNat := by
  rw [BitVec.toNat_append]; simp

theorem zero_append_valueOf {b : Word} (hb : b.toNat < 2 ^ 16) : (0#16 ++ valueOf b : BitVec 32) = b := by
  apply BitVec.eq_of_toNat_eq
  rw [toNat_zero_append, valueOf, BitVec.extractLsb'_toNat]
  exact Nat.mod_eq_of_lt hb

/-! ## The rows of the PARAM indices and of the reserved opcodes -/

theorem inRange_iff {lo hi n : Nat} {x : BitVec n} : inRange lo hi x = true ↔ lo ≤ x.toNat ∧ x.toNat ≤ hi := by
  simp [inRange]

theorem wellFormed_decodeParam (index value : Half) : WellFormed (decodeParam index value) = true := by
  have := index.isLt
  fun_cases decodeParam index value
  case case1 | case2 | case3 | case4 | case5 | case6 | case7 | case8 => rfl
  all_goals exact inRange_iff.mpr (by omega)

theorem wellFormed_decodeReserved {op : Byte} (h : op.toNat = 0x00 ∨ 0x06 ≤ op.toNat) :
    WellFormed (decodeReserved op) = true := by
  have := op.isLt
  fun_cases decodeReserved op
  case case1 => rfl
  all_goals exact inRange_iff.mpr (by omega)

theorem encode_decodeParam (index value : Half) : encode (decodeParam index value) = encodeParam index value := by
  fun_cases decodeParam index value
  case case1 h | case2 h | case3 h | case4 h | case5 h | case6 h | case7 h | case8 h =>
    exact congrArg (encodeParam · value) (BitVec.eq_of_toNat_eq h.symm)
  all_goals rfl

theorem encode_decodeReserved (op : Byte) : encode (decodeReserved op) = packWord op 0 0 0 0 := by
  fun_cases decodeReserved op
  case case1 h => exact congrArg (packWord · 0 0 0 0) (BitVec.eq_of_toNat_eq h.symm)
  all_goals rfl

theorem exec_decodeReserved (op : Byte) (s : State) : exec (decodeReserved op) s = .next s := by
  fun_cases decodeReserved op <;> rfl

/-! ## Decoding an encoded command -/

/-- Settles O2: the encoder writes the opcode and, for a PARAM command, the index, and the range that `WellFormed` asks of either is
the one in which the decoder chooses the command's row. -/
theorem decodeOfEncode : Obligations.DecodeOfEncode := by
  intro i hwf
  cases i
  case init | cycle | noteOn | noteOff => simp [encode, decode_packWord]
  case paramWf1 | paramWf2 | paramBal | paramDet | paramSync | paramUnrec5 | paramRsvA | paramRsvB =>
    exact decode_encodeParam _ _
  case reserved00 => rfl
  case reserved06to07 | reserved08to0F | reserved10to1F | reserved20to3F | reserved40to7F | reserved80toFF =>
    obtain ⟨hlo, hhi⟩ := inRange_iff.mp hwf
    rw [encode, decode_reserved (by rw [fieldOp_packWord]; omega), fieldOp_packWord]
    simp (disch := omega) only [decodeReserved, if_neg, if_pos]
  all_goals
    obtain ⟨hlo, hhi⟩ := inRange_iff.mp hwf
    rw [encode, decode_encodeParam]
    simp (disch := omega) only [decodeParam, if_neg, if_pos]

/-! ## Encoding a decoded word -/

/-- A command word and the command it stands for, one case for each format and entry point (R73, R74). -/
inductive DecodesTo : CmdWord → Instr → Prop
  | init (rsv : Byte) (a : Half) (b c : Word) : DecodesTo (packWord 0x01 rsv a b c) (.init b c)
  | cycle (rsv : Byte) (a : Half) (b c : Word) : DecodesTo (packWord 0x02 rsv a b c) (.cycle (noteOf a) (modOf a) b c)
  | noteOn (rsv : Byte) (a : Half) (b c : Word) : DecodesTo (packWord 0x03 rsv a b c) (.noteOn (noteOf a) (modOf a) b)
  | noteOff (rsv : Byte) (a : Half) (b c : Word) : DecodesTo (packWord 0x04 rsv a b c) (.noteOff (noteOf a) (modOf a) b)
  | param (rsv : Byte) (a : Half) (b c : Word) : DecodesTo (packWord 0x05 rsv a b c) (decodeParam a (valueOf b))
  | reserved (op rsv : Byte) (a : Half) (b c : Word) (h : op.toNat = 0x00 ∨ 0x06 ≤ op.toNat) :
      DecodesTo (packWord op rsv a b c) (decodeReserved op)

theorem decodesTo_decode (w : CmdWord) : DecodesTo w (decode w) := by
  rw [← packWord_fields w]
  generalize fieldOp w = op, fieldRsv w = rsv, fieldA w = a, fieldB w = b, fieldC w = c
  have hop (n : Byte) (h : op.toNat = n.toNat) : op = n := BitVec.eq_of_toNat_eq h
  rw [decode_packWord]
  split_ifs with h1 h2 h3 h4 h5
  · rw [hop 0x01 h1]; exact .init rsv a b c
  · rw [hop 0x02 h2]; exact .cycle rsv a b c
  · rw [hop 0x03 h3]; exact .noteOn rsv a b c
  · rw [hop 0x04 h4]; exact .noteOff rsv a b c
  · rw [hop 0x05 h5]; exact .param rsv a b c
  · exact .reserved op rsv a b c (by omega)

/-- Of a word with a reserved opcode no other field is used (R73, format X). -/
theorem sameUsedFields_of_reserved {w w' : CmdWord} (h : (fieldOp w).toNat = 0x00 ∨ 0x06 ≤ (fieldOp w).toNat) :
    sameUsedFields w w' = decide (fieldOp w = fieldOp w') := by
  unfold sameUsedFields
  split
  case h_6 => exact Bool.and_true _
  all_goals omega

/-- Of a word with a reserved opcode every other field is ignored (R73, format X). -/
theorem ignoredFieldsZero_of_reserved {w : CmdWord} (h : (fieldOp w).toNat = 0x00 ∨ 0x06 ≤ (fieldOp w).toNat) :
    ignoredFieldsZero w = true ↔ fieldRsv w = 0 ∧ fieldA w = 0 ∧ fieldB w = 0 ∧ fieldC w = 0 := by
  unfold ignoredFieldsZero
  split
  case h_6 => simp [and_assoc]
  all_goals omega

section
variable {w w' : CmdWord} {i : Instr}

theorem DecodesTo.wellFormed (h : DecodesTo w i) : WellFormed i = true := by
  cases h
  case param a b _ => exact wellFormed_decodeParam a (valueOf b)
  case reserved hop => exact wellFormed_decodeReserved hop
  all_goals rfl

theorem DecodesTo.sameUsedFields_encode (h : DecodesTo w i) : sameUsedFields w (encode i) = true := by
  cases h
  case param => simp [sameUsedFields, encode_decodeParam, encodeParam]
  case reserved hop =>
    rw [sameUsedFields_of_reserved (by rwa [fieldOp_packWord]), encode_decodeReserved]
    simp
  all_goals simp [sameUsedFields, encode]

theorem DecodesTo.ignoredFieldsZero_encode (h : DecodesTo w i) : ignoredFieldsZero (encode i) = true := by
  cases h
  case param b _ => simp [ignoredFieldsZero, encode_decodeParam, encodeParam, toNat_zero_append, (valueOf b).isLt]
  case reserved hop =>
    rw [encode_decodeReserved, ignoredFieldsZero_of_reserved (by rwa [fieldOp_packWord])]
    simp
  all_goals simp [ignoredFieldsZero, encode]

/-- Where the ignored fields are zero nothing of the word is lost in the command. -/
theorem DecodesTo.encode_eq (h : DecodesTo w i) (hzero : ignoredFieldsZero w = true) : encode i = w := by
  cases h
  case param => simp_all [ignoredFieldsZero, encode_decodeParam, encodeParam, zero_append_valueOf]
  case reserved hop =>
    rw [ignoredFieldsZero_of_reserved (by rwa [fieldOp_packWord])] at hzero
    simp_all [encode_decodeReserved]
  all_goals simp_all [ignoredFieldsZero, encode]

/-- The command depends on the used fields alone (R76). -/
theorem DecodesTo.decode_eq_of_sameUsedFields (h : DecodesTo w i) (hsame : sameUsedFields w w' = true) : decode w' = i := by
  cases h
  case reserved op _ _ _ _ hop =>
    rw [sameUsedFields_of_reserved (by rwa [fieldOp_packWord]), fieldOp_packWord, decide_eq_true_eq] at hsame
    subst hsame
    exact decode_reserved hop
  all_goals simp_all [sameUsedFields, decode, eq_comm (b := fieldOp w')]

end

/-- Settles O3, by the formats of the word. -/
theorem decodeIsTotalAndWellFormed : Obligations.DecodeIsTotalAndWellFormed :=
  ⟨fun w => (decodesTo_decode w).wellFormed, fun w => (decodesTo_decode w).sameUsedFields_encode,
    fun w hzero => (decodesTo_decode w).encode_eq hzero, fun w => (decodesTo_decode w).ignoredFieldsZero_encode⟩

/-! ## Fixed words and pseudo-commands -/

/-- Settles O1: thirteen runs of the decoder. -/
theorem specWordsDecode : Obligations.SpecWordsDecode := by
  unfold Obligations.SpecWordsDecode
  decide

/-- Settles O6: a pseudo-command is assembled as a PARAM word (R82), and the decoder runs on its index. -/
theorem pseudoCommandsExpand : Obligations.PseudoCommandsExpand := by
  have hparam (index v : Half) : decode (assemble (.param index v)) = decodeParam index v := decode_encodeParam index v
  refine ⟨fun v => ⟨⟨rfl, hparam 0 v⟩, ⟨rfl, hparam 1 v⟩, ⟨rfl, hparam 2 v⟩, ⟨rfl, hparam 3 v⟩, ⟨rfl, hparam 4 v⟩,
    ⟨rfl, hparam 6 v⟩, ⟨rfl, hparam 7 v⟩⟩, ⟨rfl, ?nop⟩, rfl, rfl⟩
  case nop => decide

end Sys2Proof.Machine
end

section
/-! PROOFS. The encoding family, second part: the rows of the opcode table (30_encoding R80), and the step on an offered word
(R71, R76, R77). -/

namespace Sys2Proof.Machine

/-! ## Masks of high bits -/

/-- In an aligned block of `2 ^ k` numbers all have the high bits of the first. -/
theorem and_highBits {n k lo : Nat} {x : BitVec n} (h : 2 ^ k ∣ lo ∧ lo ≤ x.toNat ∧ x.toNat < lo + 2 ^ k) :
    x &&& BitVec.allOnes n <<< k = BitVec.ofNat n lo := by
  obtain ⟨⟨q, rfl⟩, hlo, hhi⟩ := h
  have hdiv : x.toNat / 2 ^ k = q :=
    Nat.div_eq_of_lt_le (by rwa [Nat.mul_comm]) (by rwa [Nat.add_one_mul, Nat.mul_comm])
  apply BitVec.eq_of_toNat_eq
  rw [← BitVec.shiftLeft_ushiftRight, BitVec.toNat_shiftLeft, BitVec.toNat_ushiftRight, Nat.shiftRight_eq_div_pow, hdiv,
    Nat.shiftLeft_eq, Nat.mul_comm, BitVec.toNat_ofNat]

theorem packWord_and_packWord (op op' rsv rsv' : Byte) (a a' : Half) (b b' c c' : Word) :
    packWord op rsv a b c &&& packWord op' rsv' a' b' c' =
      packWord (op &&& op') (rsv &&& rsv') (a &&& a') (b &&& b') (c &&& c') := by
  unfold packWord
  rw [BitVec.and_append, BitVec.and_append, BitVec.and_append, BitVec.and_append]

/-! ## The rows -/

/-- The row of an aligned block of `2 ^ k` opcodes from `lo` on. -/
def opcodeBlock (lo k : Nat) : OpRow :=
  { pattern := packWord (BitVec.ofNat 8 lo) 0 0 0 0
    mask := packWord (BitVec.allOnes 8 <<< k) 0 0 0 0 }

/-- The row of an aligned block of `2 ^ k` PARAM indices from `lo` on. -/
def indexBlock (lo k : Nat) : OpRow :=
  { pattern := packWord 0x05 0 (BitVec.ofNat 16 lo) 0 0
    mask := packWord 0xFF 0 (BitVec.allOnes 16 <<< k) 0 0 }

section
variable (lo k : Nat) (rsv : Byte) (a : Half) (b c : Word)

theorem opcodeBlock_selects {op : Byte} (h : 2 ^ k ∣ lo ∧ lo ≤ op.toNat ∧ op.toNat < lo + 2 ^ k) :
    (opcodeBlock lo k).selects (packWord op rsv a b c) = true := by
  rw [OpRow.selects, decide_eq_true_eq, opcodeBlock, packWord_and_packWord, and_highBits h]
  simp

theorem indexBlock_selects {a : Half} (h : 2 ^ k ∣ lo ∧ lo ≤ a.toNat ∧ a.toNat < lo + 2 ^ k) :
    (indexBlock lo k).selects (packWord 0x05 rsv a b c) = true := by
  rw [OpRow.selects, decide_eq_true_eq, indexBlock, packWord_and_packWord, and_highBits h]
  simp

end

/-- The row of a reserved opcode is that of its block. -/
theorem rowOf_decodeReserved_selects {op : Byte} (h : op.toNat = 0x00 ∨ 0x06 ≤ op.toNat) (rsv : Byte) (a : Half) (b c : Word) :
    (rowOf (decodeReserved op)).selects (packWord op rsv a b c) = true := by
  have := op.isLt
  fun_cases decodeReserved op
  case case1 => exact opcodeBlock_selects 0x00 0 rsv a b c (by omega)
  case case2 => exact opcodeBlock_selects 0x06 1 rsv a b c (by omega)
  case case3 => exact opcodeBlock_selects 0x08 3 rsv a b c (by omega)
  case case4 => exact opcodeBlock_selects 0x10 4 rsv a b c (by omega)
  case case5 => exact opcodeBlock_selects 0x20 5 rsv a b c (by omega)
  case case6 => exact opcodeBlock_selects 0x40 6 rsv a b c (by omega)
  case case7 => exact opcodeBlock_selects 0x80 7 rsv a b c (by omega)

/-- The row of a PARAM index is that of its block: up to 7 the index alone, above the indices with the same leading 1 bit. -/
theorem rowOf_decodeParam_selects (rsv : Byte) (a value : Half) (b c : Word) :
    (rowOf (decodeParam a value)).selects (packWord 0x05 rsv a b c) = true := by
  have := a.isLt
  fun_cases decodeParam a value
  case case1 => exact indexBlock_selects 0 0 rsv b c (by omega)
  case case2 => exact indexBlock_selects 1 0 rsv b c (by omega)
  case case3 => exact indexBlock_selects 2 0 rsv b c (by omega)
  case case4 => exact indexBlock_selects 3 0 rsv b c (by omega)
  case case5 => exact indexBlock_selects 4 0 rsv b c (by omega)
  case case6 => exact indexBlock_selects 5 0 rsv b c (by omega)
  case case7 => exact indexBlock_selects 6 0 rsv b c (by omega)
  case case8 => exact indexBlock_selects 7 0 rsv b c (by omega)
  case case9 => exact indexBlock_selects 8 3 rsv b c (by omega)
  case case10 => exact indexBlock_selects 16 4 rsv b c (by omega)
  case case11 => exact indexBlock_selects 32 5 rsv b c (by omega)
  case case12 => exact indexBlock_selects 64 6 rsv b c (by omega)
  case case13 => exact indexBlock_selects 128 7 rsv b c (by omega)
  case case14 => exact indexBlock_selects 256 8 rsv b c (by omega)
  case case15 => exact indexBlock_selects 512 9 rsv b c (by omega)
  case case16 => exact indexBlock_selects 1024 10 rsv b c (by omega)
  case case17 => exact indexBlock_selects 2048 11 rsv b c (by omega)
  case case18 => exact indexBlock_selects 4096 12 rsv b c (by omega)
  case case19 => exact indexBlock_selects 8192 13 rsv b c (by omega)
  case case20 => exact indexBlock_selects 16384 14 rsv b c (by omega)
  case case21 => exact indexBlock_selects 32768 15 rsv b c (by omega)

theorem DecodesTo.rowOf_selects {w : CmdWord} {i : Instr} (h : DecodesTo w i) : (rowOf i).selects w = true := by
  cases h
  case init rsv a b c => exact opcodeBlock_selects 0x01 0 rsv a b c (by decide)
  case cycle rsv a b c => exact opcodeBlock_selects 0x02 0 rsv a b c (by decide)
  case noteOn rsv a b c => exact opcodeBlock_selects 0x03 0 rsv a b c (by decide)
  case noteOff rsv a b c => exact opcodeBlock_selects 0x04 0 rsv a b c (by decide)
  case param rsv a b c => exact rowOf_decodeParam_selects rsv a (valueOf b) b c
  case reserved op rsv a b c hop => exact rowOf_decodeReserved_selects hop rsv a b c

/-- The table holds the rows in the order of the constructors. -/
theorem opcodeTable_getElem?_ctorIdx (i : Instr) : opcodeTable[i.ctorIdx]? = some (rowOf i) := by
  cases i <;> rfl

/-- Two rows that select one word do not contradict each other in any bit that both look at. -/
theorem OpRow.pattern_and_mask_eq {r r' : OpRow} {w : CmdWord} (h : r.selects w = true) (h' : r'.selects w = true) :
    r.pattern &&& r'.mask = r'.pattern &&& r.mask := by
  rw [OpRow.selects, decide_eq_true_eq] at h h'
  rw [← h, ← h', BitVec.and_assoc, BitVec.and_assoc, BitVec.and_comm r.mask]

/-- Any two different rows of the table contradict each other in a bit that both look at. -/
theorem opcodeTable_eq_of_pattern_and_mask_eq :
    ∀ r ∈ opcodeTable, ∀ r' ∈ opcodeTable, r.pattern &&& r'.mask = r'.pattern &&& r.mask → r = r' := by
  decide

/-- Settles O4: the row of the decoded command is a row of the table and selects the word; a second row that selects it would agree
with the first in every bit that both look at, and no two rows of the table do. -/
theorem tableRowsPartitionWords : Obligations.TableRowsPartitionWords := by
  refine ⟨rfl, .of_map OpRow.pattern (by decide), fun w => ?_⟩
  have hmem : rowOf (decode w) ∈ opcodeTable := List.mem_of_getElem? (opcodeTable_getElem?_ctorIdx (decode w))
  have hsel : (rowOf (decode w)).selects w = true := (decodesTo_decode w).rowOf_selects
  exact ⟨hmem, hsel, fun r hr hrw =>
    opcodeTable_eq_of_pattern_and_mask_eq r hr _ hmem (OpRow.pattern_and_mask_eq hrw hsel)⟩

/-! ## The step on an offered word -/

theorem step_command (s : State) (w : CmdWord) (rest : List HostInput) :
    step { s with inputs := .command w :: rest } = exec (decode w) { s with inputs := rest } :=
  rfl

/-- Settles O5: the step runs the decoded command, and the decoder looks at the used fields only. -/
theorem ignoredFieldsChangeNothing : Obligations.IgnoredFieldsChangeNothing := by
  intro s w w' rest hsame
  have hdecode : decode w' = decode w := (decodesTo_decode w).decode_eq_of_sameUsedFields hsame
  rw [step_command, step_command, hdecode]

/-- Settles O18: the word decodes to a reserved row, and each of those is without effect. -/
theorem reservedOpcodeWordsDoNothing : Obligations.ReservedOpcodeWordsDoNothing := by
  refine ⟨fun s w rest hop => ?_, by decide⟩
  rw [step_command, decode_reserved hop, exec_decodeReserved]

/-- Settles O7: the engine takes the offered word from the deliveries and runs what it decodes to. -/
theorem stepRunsDecodedCommand : Obligations.StepRunsDecodedCommand := by
  intro s w rest hinputs
  rw [← step_command s w rest, ← hinputs]

end Sys2Proof.Machine
end

section
/-! PROOFS. The waveform family: which exact values are values of `F`, so that the triangle rounds in one place only (40_waveform R102
to R105), and what the multiplexer answers for each code (R100, R101, R106, R108, R109). -/

namespace Sys2Proof.Machine

/-! ## Exact results (00_scope R8) -/

/-- The exact values that `F` holds: at most 24 bits above a last place of the format. -/
theorem exists_finite_units_iff {d : Int} :
    (∃ y : F, isFinite y = true ∧ units y = d) ↔ ∃ e ≤ 253, 2 ^ e ∣ d ∧ |d| < 2 ^ 24 * 2 ^ e := by
  constructor
  · rintro ⟨y, hy, rfl⟩
    have hlt := magBits_lt_of_isFinite hy
    obtain ⟨s, q, hb, hq, hs⟩ := exists_step_significand (magBits y)
    have hm : (magUnits y : Int) = q * 2 ^ s := by
      rw [magUnits, hb, unitsOfBits_at s q hq.le hs]; push_cast; rfl
    have hdvd : (2 : Int) ^ s ∣ magUnits y := ⟨q, by rw [hm, mul_comm]⟩
    have habs : |units y| = magUnits y := by rw [units]; split <;> simp
    refine ⟨s, by omega, (dvd_abs _ _).mp (by rwa [habs]), ?_⟩
    rw [habs, hm]
    exact mul_lt_mul_of_pos_right (by exact_mod_cast hq) (by positivity)
  · rintro ⟨e, he, ⟨k, rfl⟩, hlt⟩
    rw [abs_mul, abs_of_pos (by positivity), mul_comm] at hlt
    have hk : k.natAbs < 2 ^ 24 := by
      have := lt_of_mul_lt_mul_right hlt (by positivity)
      rw [Int.abs_eq_natAbs] at this
      omega
    obtain ⟨y, hy, hu⟩ := exists_finite_units k.natAbs e hk he
    push_cast at hu
    rcases abs_choice k with h | h <;> rw [h] at hu
    · exact ⟨y, hy, by rw [hu, mul_comm]⟩
    · exact ⟨fneg y, by rwa [isFinite_fneg], by rw [units_fneg, hu]; ring⟩

/-- Sterbenz: the difference of two values within a factor 2 of each other is a multiple of the smaller last place and exceeds neither
value, so `F` holds it (40_waveform R104). -/
theorem exists_finite_sub {a b : F} (ha : isFinite a = true) (hb : isFinite b = true) (hlo : units b ≤ 2 * units a)
    (hhi : units a ≤ 2 * units b) : ∃ y : F, isFinite y = true ∧ units y = units a - units b := by
  obtain ⟨i, hi, hai, hlta⟩ := exists_finite_units_iff.mp ⟨a, ha, rfl⟩
  obtain ⟨j, hj, hbj, hltb⟩ := exists_finite_units_iff.mp ⟨b, hb, rfl⟩
  have hda : |units a - units b| ≤ |units a| := by rw [Int.abs_eq_natAbs, Int.abs_eq_natAbs]; omega
  have hdb : |units a - units b| ≤ |units b| := by rw [Int.abs_eq_natAbs, Int.abs_eq_natAbs]; omega
  refine exists_finite_units_iff.mpr ?_
  rcases Nat.le_total i j with hij | hij
  · exact ⟨i, hi, dvd_sub hai ((pow_dvd_pow 2 hij).trans hbj), hda.trans_lt hlta⟩
  · exact ⟨j, hj, dvd_sub ((pow_dvd_pow 2 hij).trans hai) hbj, hdb.trans_lt hltb⟩

/-- Four times a value far from overflow moves its last place by two. -/
theorem exists_finite_four_mul {x : F} (hx : isFinite x = true) (hsmall : |units x| < 2 ^ 252) :
    ∃ y : F, isFinite y = true ∧ units y = 4 * units x := by
  obtain ⟨e, -, hdvd, hlt⟩ := exists_finite_units_iff.mp ⟨x, hx, rfl⟩
  rcases Nat.lt_or_ge 251 e with he | he
  · have h0 : units x = 0 :=
      Int.eq_zero_of_abs_lt_dvd hdvd (hsmall.trans_le (pow_le_pow_right₀ (by norm_num) he))
    exact ⟨x, hx, by omega⟩
  · refine exists_finite_units_iff.mpr ⟨e + 2, by omega, ?_, ?_⟩
    · rw [pow_add, mul_comm]
      exact mul_dvd_mul (by norm_num) hdvd
    · rw [abs_mul, pow_add, abs_of_pos (by norm_num)]
      linarith

/-- `0.25` as an exact value. -/
theorem units_quarter : units 0x3E800000 = 2 ^ 147 := by decide

/-- Dividing by 0.25 is exact far from overflow (40_waveform R104). -/
theorem units_fdiv_quarter {x : F} (hx : isFinite x = true) (hsmall : |units x| < 2 ^ 252) :
    isFinite (fdiv x 0x3E800000) = true ∧ units (fdiv x 0x3E800000) = 4 * units x := by
  obtain ⟨y, hy, hu⟩ := exists_finite_four_mul hx hsmall
  rw [← hu]
  exact units_fdiv hx (by decide) (by decide) hy (by rw [hu, units_quarter]; ring)

/-- The inner part `fdiv(fsub(p, c), 0.25)` of the segments two to four is exact: neither operation rounds (40_waveform R104). -/
theorem units_fdiv_fsub_quarter {p c : F} (hp : isFinite p = true) (hc : isFinite c = true) (hlo : units c ≤ 2 * units p)
    (hhi : units p ≤ 2 * units c) (hsmall : units c < 2 ^ 252) :
    isFinite (fdiv (fsub p c) 0x3E800000) = true ∧ units (fdiv (fsub p c) 0x3E800000) = 4 * (units p - units c) := by
  obtain ⟨y, hy, hu⟩ := exists_finite_sub hp hc hlo hhi
  obtain ⟨hf, hd⟩ := units_fsub hp hc hy hu.symm
  rw [hu] at hd
  rw [← hd]
  exact units_fdiv_quarter hf (by rw [Int.abs_eq_natAbs]; omega)

/-! ## Nearest values -/

/-- A value of `F` is the nearest to itself. -/
theorem nearestEven_of_units_eq {num : Int} {r : F} (h : units r = num) : NearestEven num 1 r := by
  intro y _
  subst h
  simp only [Int.abs_eq_natAbs]
  omega

theorem RoundsTo.nearestEven {num : Int} {r : F} (h : RoundsTo num 1 r) (hnum : |num| < 2 ^ 252) :
    isFinite r = true ∧ NearestEven num 1 r :=
  h.1 (by omega)

/-- The nearest value does not pass a value of `F` that the exact one does not pass. -/
theorem NearestEven.units_le {num : Int} {r y : F} (h : NearestEven num 1 r) (hy : isFinite y = true) (hnum : num ≤ units y) :
    units r ≤ units y := by
  have := (h y hy).1
  simp only [Int.abs_eq_natAbs] at this
  omega

theorem NearestEven.le_units {num : Int} {r y : F} (h : NearestEven num 1 r) (hy : isFinite y = true) (hnum : units y ≤ num) :
    units y ≤ units r := by
  have := (h y hy).1
  simp only [Int.abs_eq_natAbs] at this
  omega

/-! ## The triangle (40_waveform R102 to R105) -/

/-- Settles O31: the nine phases are evaluated, the boundaries in the segment that ends there (R103). -/
theorem triangleBoundaryValues : Obligations.TriangleBoundaryValues := by
  unfold Obligations.TriangleBoundaryValues
  decide

/-- Settles O32: segment by segment. The subtraction of the segment's start is exact (`exists_finite_sub`), so is the division, and
what is left is one sum or none. -/
theorem triangleRoundsOnce : Obligations.TriangleRoundsOnce := by
  intro p h0 h15
  obtain ⟨hp, hp0, hp15⟩ := units_between (by decide) (by decide) h0 h15
  rw [units_zero] at hp0
  rw [show units 0x3FC00000 = 2 ^ 149 + 2 ^ 148 by decide] at hp15
  have hfq : isFinite 0x3E800000 = true := by decide
  have hfh : isFinite 0x3F000000 = true := by decide
  have hft : isFinite 0x3F400000 = true := by decide
  have hquarter := units_quarter
  have hhalf : units 0x3F000000 = 2 ^ 148 := by decide
  have hthree : units 0x3F400000 = 2 ^ 148 + 2 ^ 147 := by decide
  simp only [tri, triExact, fle_iff_units hp hfq, fle_iff_units hp hfh, fle_iff_units hp hft, hquarter, hhalf, hthree]
  split_ifs with h1 h2 h3
  · obtain ⟨hf, hu⟩ := units_fdiv_quarter hp (by rw [abs_of_nonneg hp0]; omega)
    exact ⟨hf, nearestEven_of_units_eq hu⟩
  · obtain ⟨hf, hu⟩ := units_fdiv_fsub_quarter hp hfq (by omega) (by omega) (by omega)
    obtain ⟨-, -, hsum, -⟩ := operationsRoundToNearestEven 0x3F800000 _ (by decide) hf
    rw [hu, units_one, hquarter] at hsum
    exact hsum.nearestEven (by rw [Int.abs_eq_natAbs]; omega)
  · obtain ⟨hf, hu⟩ := units_fdiv_fsub_quarter hp hfh (by omega) (by omega) (by omega)
    exact ⟨by rwa [isFinite_fneg], nearestEven_of_units_eq (by rw [units_fneg, hu, hhalf])⟩
  · obtain ⟨hf, hu⟩ := units_fdiv_fsub_quarter hp hft (by omega) (by omega) (by omega)
    obtain ⟨hsum, -⟩ := operationsRoundToNearestEven 0xBF800000 _ (by decide) hf
    rw [hu, hthree, show units 0xBF800000 = -2 ^ 149 by decide] at hsum
    exact hsum.nearestEven (by rw [Int.abs_eq_natAbs]; omega)

/-- The exact triangle stays in [-1,1] on [0,1] (R104). -/
theorem triExact_range {p : Int} (h0 : 0 ≤ p) (h1 : p ≤ 2 ^ 149) : -2 ^ 149 ≤ triExact p ∧ triExact p ≤ 2 ^ 149 := by
  unfold triExact
  split_ifs <;> omega

/-- The rounded triangle stays in [-1,1] on [0,1), since the exact one does and both ends are values of `F` (R104). -/
theorem inSample_tri {p : F} (h : inUnit p = true) : inSample (tri p) = true := by
  have hrange := h
  rw [inUnit, Bool.and_eq_true] at hrange
  obtain ⟨h0, h1⟩ := hrange
  obtain ⟨hp, -, -⟩ := units_between (by decide) (by decide) h0 (fle_of_flt h1)
  obtain ⟨hp0, hp1⟩ := (inUnit_iff_units hp).mp h
  obtain ⟨hf, hnear⟩ := triangleRoundsOnce p h0 (fle_trans (fle_of_flt h1) (by decide))
  obtain ⟨hlo, hhi⟩ := triExact_range hp0 hp1.le
  rw [inSample, Bool.and_eq_true, fle_iff_units (by decide) hf, fle_iff_units hf (by decide)]
  exact ⟨hnear.le_units (by decide) hlo, hnear.units_le (by decide) (by rwa [units_one])⟩

/-! ## The multiplexer (40_waveform R108, R109) -/

/-- Codes from 5 on take the default branch (R109). -/
theorem sel_of_five_le {code : Half} (h : 5 ≤ code.toNat) (draw p : F) : sel draw code p = Config.wfDefaultSample := by
  unfold sel
  split
  case h_6 => rfl
  all_goals omega

/-- Settles O34: the codes with a generator of their own by computation, the others by `sel_of_five_le`. -/
theorem multiplexerSelectsByCode : Obligations.MultiplexerSelectsByCode := by
  intro draw p
  have hexample : tri 0x3EC00000 = 0x3F000000 := by decide
  exact ⟨rfl, rfl, rfl, rfl, rfl, fun code h => sel_of_five_le h draw p, fun _ => rfl, hexample⟩

/-- Every branch of the multiplexer stays in the sample range: the library generators by their contracts (R101), the triangle by
`inSample_tri`, the draw as supplied, and the default sample because it is 0. -/
theorem inSample_sel {draw p : F} (hdraw : inSample draw = true) (hp : inUnit p = true) (code : Half) :
    inSample (sel draw code p) = true := by
  unfold sel
  split
  case h_1 => exact inSample_boundOnUnit _ hp
  case h_2 => exact inSample_boundOnUnit _ hp
  case h_3 => exact inSample_tri hp
  case h_4 => exact inSample_boundOnUnit _ hp
  case h_5 => exact hdraw
  case h_6 => decide

/-- Settles O33: a draw is in range by its contract, whatever was supplied, and so is what the multiplexer selects. -/
theorem generatorsStayInSampleRange : Obligations.GeneratorsStayInSampleRange :=
  ⟨fun _ _ code _ hp => inSample_sel (inSample_noise _ _) hp code, fun _ _ => inSample_noise _ _⟩

end Sys2Proof.Machine
end

section
/-! PROOFS. The parameter family: what a PARAM writes (41_param R121 to R125, R130), how near the stored hundredths are to the exact
ones (00_scope R8), and which indices do nothing (R126, R128). -/

namespace Sys2Proof.Machine

/-! ## The stored hundredths -/

/-- A quotient may be cancelled: only `num / den` counts. -/
theorem NearestEven.of_mul {c den : Nat} {num : Int} {r : F} (hc : 0 < c) (h : NearestEven (c * num) (c * den : Nat) r) :
    NearestEven num den r := by
  have hc' : (0 : Int) < c := by exact_mod_cast hc
  have hscale : ∀ u : Int, |c * num - (c * den : Nat) * u| = c * |num - den * u| := fun u => by
    rw [Nat.cast_mul, mul_assoc, ← mul_sub, abs_mul, abs_of_pos hc']
  intro y hy
  obtain ⟨hle, htie⟩ := h y hy
  rw [hscale, hscale] at hle htie
  exact ⟨le_of_mul_le_mul_left hle hc', fun hne heq => htie hne (by rw [heq])⟩

/-- Where `F` holds the exact quotient, the nearest value is that quotient. -/
theorem NearestEven.exact {den : Nat} {num : Int} {r y : F} (h : NearestEven num den r) (hy : isFinite y = true)
    (hnum : num = den * units y) : num = den * units r := by
  obtain ⟨hle, -⟩ := h y hy
  rw [← hnum, sub_self, abs_zero] at hle
  exact sub_eq_zero.mp (abs_nonpos_iff.mp hle)

/-- Hundredths of an integer that converts exactly are rounded once, by the division (R123, R124). -/
theorem hundredths_nearestEven {k : Int} (hk : k.natAbs < 2 ^ 24) :
    isFinite (fdiv (i2f k) hundred) = true ∧ NearestEven (2 ^ 149 * k) 100 (fdiv (i2f k) hundred) := by
  obtain ⟨hf, hu⟩ := units_i2f_of_natAbs_lt hk
  have hround := roundsTo_fdiv hf (show isFinite hundred = true by decide) (by rw [units_hundred]; positivity)
  rw [hu, if_neg (by decide), show magUnits hundred = 2 ^ 149 * 100 by decide, mul_comm k] at hround
  obtain ⟨hfin, hnear⟩ := hround.1 (by rw [Int.abs_eq_natAbs]; omega)
  exact ⟨hfin, NearestEven.of_mul (c := 2 ^ 149) (by positivity) (by exact_mod_cast hnear)⟩

/-- The power of two in the unit adds no factor 5. -/
theorem twentyFive_dvd_of_exact {k u : Int} (h : 2 ^ 149 * k = 100 * u) : 25 ∣ k := by
  have hdvd : 25 ∣ 2 ^ 149 * k := by
    rw [h]
    exact Dvd.dvd.mul_right (by norm_num) u
  exact IsCoprime.dvd_of_dvd_mul_left (IsCoprime.pow_right (by norm_num)) hdvd

/-- Settles O24: one rounding gives the nearest value; a multiple of 25 leaves a multiple of a quarter, which `F` holds, and only
multiples of 25 are exact by `twentyFive_dvd_of_exact`. -/
theorem storedBalanceIsNearestQuotient : Obligations.StoredBalanceIsNearestQuotient := by
  intro value
  have hv := value.isLt
  obtain ⟨hf, hnear⟩ := hundredths_nearestEven (k := value.toNat) (by omega)
  refine ⟨hf, hnear, fun hexact => ?multiple, fun h25 => ?exact⟩
  case multiple => exact Nat.mod_eq_zero_of_dvd (by exact_mod_cast twentyFive_dvd_of_exact hexact)
  case exact =>
    obtain ⟨y, hy, hu⟩ := exists_finite_units (value.toNat / 25) 147 (by omega) (by norm_num)
    exact hnear.exact hy (by rw [hu]; omega)

/-- Settles O25: the difference converts exactly, so the division alone rounds. -/
theorem storedDetuneIsNearestQuotient : Obligations.StoredDetuneIsNearestQuotient := by
  intro value
  have hv := value.isLt
  exact hundredths_nearestEven (by omega)

/-! ## Indices without a register -/

theorem decode_param {w : CmdWord} (h : (fieldOp w).toNat = 0x05) : decode w = decodeParam (fieldA w) (valueOf (fieldB w)) := by
  simp [decode, h]

theorem exec_decodeParam_unrecognised {index : Half} (h : index.toNat = 5 ∨ 8 ≤ index.toNat) (value : Half) (s : State) :
    exec (decodeParam index value) s = .next s := by
  fun_cases decodeParam index value
  case case1 | case2 | case3 | case4 | case5 => omega
  all_goals rfl

/-- Settles O29: the step runs the decoded row, and the rows of these indices have no effect. -/
theorem unrecognisedIndexWordsDoNothing : Obligations.UnrecognisedIndexWordsDoNothing := by
  intro s w rest hop hindex
  rw [step_command, decode_param hop, exec_decodeParam_unrecognised hindex]

/-- Settles O28: the meaning of each row is `noEffect`. -/
theorem unrecognisedIndicesDoNothing : Obligations.UnrecognisedIndicesDoNothing := fun _ _ _ =>
  ⟨rfl, rfl, rfl, rfl, rfl, rfl, rfl, rfl, rfl, rfl, rfl, rfl, rfl, rfl⟩

/-- Settles O27: the meaning of both slots is `noEffect`. -/
theorem reservedSlotsDoNothing : Obligations.ReservedSlotsDoNothing := fun _ _ => ⟨rfl, rfl⟩

/-! ## The five registers -/

section
variable (v v' : Half) (s : State)

theorem exec_paramWf1 : exec (.paramWf1 v) s = .next (setWf1 v s) := rfl

theorem exec_paramWf2 : exec (.paramWf2 v) s = .next (setWf2 v s) := rfl

theorem exec_paramBal : exec (.paramBal v) s = .next (setBal (scaleBalance v) s) := rfl

theorem exec_paramDet : exec (.paramDet v) s = .next (setDet (scaleDetune v) s) := rfl

theorem exec_paramSync : exec (.paramSync v) s = .next (setSync v s) := rfl

@[simp] theorem setWf1_setWf1 : setWf1 v' (setWf1 v s) = setWf1 v' s := rfl

@[simp] theorem setWf2_setWf2 : setWf2 v' (setWf2 v s) = setWf2 v' s := rfl

@[simp] theorem setBal_setBal (b b' : F) : setBal b' (setBal b s) = setBal b' s := rfl

@[simp] theorem setDet_setDet (d d' : F) : setDet d' (setDet d s) = setDet d' s := rfl

@[simp] theorem setSync_setSync : setSync v' (setSync v s) = setSync v' s := rfl

end

theorem syncEnabled_iff {sync : Half} : syncEnabled sync = true ↔ sync = 1 := decide_eq_true_iff

/-- Settles O19: the update of WF1, and `sel_of_five_le` for the codes no generator has. -/
theorem paramWf1StoresRawValue : Obligations.ParamWf1StoresRawValue := fun s value =>
  ⟨exec_paramWf1 value s, sel_of_five_le⟩

/-- Settles O20: the update of WF2, and `sel_of_five_le` for the codes no generator has. -/
theorem paramWf2StoresRawValue : Obligations.ParamWf2StoresRawValue := fun s value =>
  ⟨exec_paramWf2 value s, sel_of_five_le⟩

/-- Settles O21: the update of SYNC, and the sample step's test of it against 1. -/
theorem paramSyncStoresRawValue : Obligations.ParamSyncStoresRawValue := fun s value =>
  ⟨exec_paramSync value s, syncEnabled_iff⟩

/-- Settles O22: the update of BAL with the scaled value; the seven patterns of R123 are computed. -/
theorem paramBalStoresScaledValue : Obligations.ParamBalStoresScaledValue :=
  ⟨fun s value => exec_paramBal value s, by decide⟩

/-- Settles O23: the update of DET with the scaled value; the seven patterns of R124 are computed. -/
theorem paramDetStoresScaledValue : Obligations.ParamDetStoresScaledValue :=
  ⟨fun s value => exec_paramDet value s, by decide⟩

/-- A command whose update forgets the update before it leaves what it alone would have left (R130). -/
theorem exec_overwrites {command : Half → Instr} {update : Half → State → State}
    (hexec : ∀ v s, exec (command v) s = .next (update v s)) (hupdate : ∀ v v' s, update v' (update v s) = update v' s)
    {s t : State} {v : Half} (h : exec (command v) s = .next t) (v' : Half) :
    exec (command v') t = exec (command v') s := by
  rw [hexec] at h
  cases h
  rw [hexec, hexec, hupdate]

/-- Settles O30: each register's update forgets the one before it. -/
theorem lastParameterWriteWins : Obligations.LastParameterWriteWins := fun _ _ _ v' =>
  ⟨(exec_overwrites exec_paramWf1 setWf1_setWf1 · v'),
   (exec_overwrites exec_paramWf2 setWf2_setWf2 · v'),
   (exec_overwrites exec_paramBal (fun _ _ s => setBal_setBal s _ _) · v'),
   (exec_overwrites exec_paramDet (fun _ _ s => setDet_setDet s _ _) · v'),
   (exec_overwrites exec_paramSync setSync_setSync · v')⟩

end Sys2Proof.Machine
end

section
/-! PROOFS. The pitch and detune family: the latches of the resolver (42_pitch_detune R141 to R145), its bounds within the contracts
(R147), the two slopes of the detune (R146), and a NaN `lfo` (R148). -/

namespace Sys2Proof.Machine

/-! ## The latches -/

theorem resolveF2_of_pos {f1 det lfo01 : F} (h : flt 0x00000000 det = true) : resolveF2 f1 det lfo01 = detunedUp f1 det lfo01 :=
  if_pos h

theorem resolveF2_of_not_pos {f1 det lfo01 : F} (h : flt 0x00000000 det = false) :
    resolveF2 f1 det lfo01 = detunedDown f1 det lfo01 :=
  if_neg (by rw [h]; decide)

/-- Settles O35: the two formulas of F2 by the branch, the other latches by definition, and `NOTE_HZ` by its contract. -/
theorem resolverFollowsDetuneSign : Obligations.ResolverFollowsDetuneSign := fun note mod _ _ =>
  ⟨rfl, rfl, resolveF2_of_pos, resolveF2_of_not_pos, rfl, rfl, rfl, noteHz_spec note mod⟩

/-- Settles O36: the eleven rows of R149 are computed. -/
theorem resolverWorkedExamples : Obligations.ResolverWorkedExamples := by
  unfold Obligations.ResolverWorkedExamples
  decide

/-- Settles O37: the range by `rescaleLfo_range`; the ends and the middle are computed. -/
theorem rescaledLfoStaysInUnit : Obligations.RescaledLfoStaysInUnit :=
  ⟨fun _ => rescaleLfo_range, by decide⟩

/-! ## Products that are zero or by one -/

theorem units_half : units half = 2 ^ 148 := by decide

theorem units_two : units 0x40000000 = 2 ^ 150 := by decide

theorem isZero_iff_units {x : F} : isZero x = true ↔ units x = 0 := by
  have hmag : magUnits x = 0 ↔ magBits x = 0 := unitsOfBits_zero ▸ unitsOfBits_inj
  rw [isZero, decide_eq_true_eq, ← hmag, units]
  split <;> omega

theorem isFinite_of_isZero {x : F} (h : isZero x = true) : isFinite x = true := by
  rw [isZero, decide_eq_true_eq] at h
  rw [isFinite, h]
  rfl

theorem units_fmul_of_mul_eq_zero {a b : F} (ha : isFinite a = true) (hb : isFinite b = true) (h : units a * units b = 0) :
    isFinite (fmul a b) = true ∧ units (fmul a b) = 0 :=
  units_fmul ha hb (y := 0x00000000) (by decide) (by rw [h, units_zero, zero_mul])

/-- Adding either zero to 1.0 gives 1.0. -/
theorem fadd_one_of_units_eq_zero {z : F} (hz : isFinite z = true) (h : units z = 0) : fadd one z = one := by
  rw [fadd, sumWith_finite (by decide) hz, h, if_neg (by decide)]
  decide

/-- A finite value times 1.0 is that value, the sign of a zero included. -/
theorem fmul_one {a : F} (ha : isFinite a = true) : fmul a one = a := by
  have hround : roundBits (magUnits a * 2 ^ 149) (2 ^ 149) = magBits a :=
    roundBits_exact (by positivity) (magBits_lt_of_isFinite ha).le rfl
  rw [fmul_finite ha (by decide), show signBit one = false by decide, show magUnits one = 2 ^ 149 by decide, hround,
    Bool.bne_false, packF_signBit_magBits]

theorem fle_of_isFinite {x : F} (hx : isFinite x = true) : fle 0xFF7FFFFF x = true ∧ fle x 0x7F7FFFFF = true := by
  have hmag := magBits_lt_of_isFinite hx
  rw [fle_iff_units (by decide) hx, fle_iff_units hx (by decide), units_le_units_iff, units_le_units_iff,
    show orderKey 0xFF7FFFFF = -0x7F7FFFFF by decide, show orderKey 0x7F7FFFFF = 0x7F7FFFFF by decide, orderKey]
  split <;> omega

/-- A factor 0.5 leaves a value in a range around zero there. -/
theorem fmul_half_range {lo hi d : F} (hlo : isFinite lo = true) (hhi : isFinite hi = true) (hlo0 : units lo ≤ 0)
    (hhi0 : 0 ≤ units hi) (hd1 : fle lo d = true) (hd2 : fle d hi = true) :
    fle lo (fmul half d) = true ∧ fle (fmul half d) hi = true := by
  rw [fmul_comm_of_isFinite (by decide) (isFinite_of_between hlo hhi hd1 hd2)]
  exact fmul_range_of_factor hlo hhi hlo0 hhi0 hd1 hd2 (by decide) (by decide)

theorem isFinite_fmul_half {d : F} (hd : isFinite d = true) : isFinite (fmul half d) = true := by
  obtain ⟨h1, h2⟩ := fle_of_isFinite hd
  obtain ⟨h1, h2⟩ := fmul_half_range (by decide) (by decide) (by decide) (by decide) h1 h2
  exact isFinite_of_between (by decide) (by decide) h1 h2

/-! ## Without detune -/

/-- A detune term that is zero leaves the frequency as it is, bit for bit. -/
theorem fmul_factor_of_mul_eq_zero {f1 d u : F} (hf : isFinite f1 = true) (hd : isFinite d = true) (hu : isFinite u = true)
    (h : units d * units u = 0) : fmul f1 (fadd one (fmul d u)) = f1 := by
  obtain ⟨hz, hz0⟩ := units_fmul_of_mul_eq_zero hd hu h
  rw [fadd_one_of_units_eq_zero hz hz0, fmul_one hf]

theorem resolveF2_of_mul_eq_zero {f1 det u : F} (hf : isFinite f1 = true) (hd : isFinite det = true) (hu : isFinite u = true)
    (h : units det * units u = 0) : resolveF2 f1 det u = f1 := by
  have hdown : units (fmul half det) * units u = 0 := by
    rcases mul_eq_zero.mp h with hd0 | hu0
    · rw [(units_fmul_of_mul_eq_zero (by decide) hd (by rw [hd0, mul_zero])).2, zero_mul]
    · rw [hu0, mul_zero]
  rw [resolveF2]
  split
  · exact fmul_factor_of_mul_eq_zero hf hd hu h
  · exact fmul_factor_of_mul_eq_zero hf (isFinite_fmul_half hd) hu hdown

/-- Settles O39: in both cases one factor of the detune term is zero. -/
theorem noDetuneLeavesFrequency : Obligations.NoDetuneLeavesFrequency := by
  rintro f1 det lfo hf (⟨hdet, hlfo⟩ | ⟨hdet, rfl⟩)
  · obtain ⟨hu0, hu1⟩ := rescaleLfo_range hlfo
    exact resolveF2_of_mul_eq_zero hf (isFinite_of_isZero hdet) (isFinite_of_between (by decide) (by decide) hu0 hu1)
      (by rw [isZero_iff_units.mp hdet, zero_mul])
  · have hmin : rescaleLfo 0xBF800000 = 0x00000000 := by decide
    rw [hmin]
    exact resolveF2_of_mul_eq_zero hf hdet (by decide) (by rw [units_zero, mul_zero])

/-! ## Within an octave -/

/-- Rounding keeps the order: were two ordered quotients rounded to swapped values, each would be no nearer than the other's, so both
would be the midpoint. -/
theorem roundRaw_mono {num num' den : Nat} (hden : 0 < den) (h : num ≤ num') : roundRaw num den ≤ roundRaw num' den := by
  by_contra hlt
  rw [not_le] at hlt
  have hvalues : unitsOfBits (roundRaw num' den) * den < unitsOfBits (roundRaw num den) * den :=
    Nat.mul_lt_mul_of_pos_right (unitsOfBits_lt_iff.mpr hlt) hden
  have hnear := roundRaw_nearest num den (roundRaw num' den) hden
  have hnear' := roundRaw_nearest num' den (roundRaw num den) hden
  simp only [Int.abs_eq_natAbs] at hnear hnear'
  have heq : num = num' := by omega
  rw [heq] at hlt
  exact lt_irrefl _ hlt

theorem roundBits_mono {num num' den : Nat} (hden : 0 < den) (h : num ≤ num') : roundBits num den ≤ roundBits num' den :=
  min_le_min_right _ (roundRaw_mono hden h)

theorem fmul_of_pos {a b : F} (ha : isFinite a = true) (hb : isFinite b = true) (ha0 : 0 < units a) (hb0 : 0 < units b) :
    fmul a b = packF false (roundBits (magUnits a * magUnits b) (2 ^ 149)) := by
  rw [fmul_finite ha hb, (magUnits_of_pos ha0).1, (magUnits_of_pos hb0).1]
  rfl

/-- Products of one positive value are ordered as the other factors are, rounding and overflow included. -/
theorem fle_fmul_fmul {a b c : F} (ha : isFinite a = true) (hb : isFinite b = true) (hc : isFinite c = true)
    (ha0 : 0 < units a) (hb0 : 0 < units b) (h : units b ≤ units c) : fle (fmul a b) (fmul a c) = true := by
  have hc0 : 0 < units c := hb0.trans_le h
  have hmag : magUnits b ≤ magUnits c := by
    have := (magUnits_of_pos hb0).2
    have := (magUnits_of_pos hc0).2
    omega
  have hle := roundBits_mono (den := 2 ^ 149) (by positivity) (Nat.mul_le_mul_left (magUnits a) hmag)
  have hinf := roundBits_le_inf (magUnits a * magUnits c) (2 ^ 149)
  rw [fmul_of_pos ha hb ha0 hb0, fmul_of_pos ha hc ha0 hc0, fle, isNaN_rounded, isNaN_rounded,
    orderKey_packF _ (by omega), orderKey_packF _ (by omega)]
  simpa using hle

/-- A scaled detune from -0.5 to 1.0 puts a factor from 0.5 to 2.0 on the frequency (R147). -/
theorem detuneFactor_range {d u : F} (hd1 : fle 0xBF000000 d = true) (hd2 : fle d 0x3F800000 = true)
    (hu0 : fle 0x00000000 u = true) (hu1 : fle u 0x3F800000 = true) :
    isFinite (fadd one (fmul d u)) = true ∧ units half ≤ units (fadd one (fmul d u)) ∧
      units (fadd one (fmul d u)) ≤ units 0x40000000 := by
  obtain ⟨h1, h2⟩ := fmul_range_of_factor (by decide) (by decide) (by decide) (by decide) hd1 hd2 hu0 hu1
  obtain ⟨hf, hlo, hhi⟩ := units_between (by decide) (by decide) h1 h2
  have hone : units one = 2 ^ 149 := units_one
  rw [show units 0xBF000000 = -2 ^ 148 by decide] at hlo
  rw [units_one] at hhi
  exact units_between (by decide) (by decide)
    (fle_fadd_left (by decide) hf (by decide) (by rw [units_half, hone]; omega))
    (fle_fadd_right (by decide) hf (by decide) (by rw [units_two, hone]; omega))

/-- Halving a detune in [-1,1] leaves it from -0.5 to 1.0. -/
theorem fmul_half_detune_range {d : F} (h : inSample d = true) :
    fle 0xBF000000 (fmul half d) = true ∧ fle (fmul half d) 0x3F800000 = true := by
  rw [inSample, Bool.and_eq_true] at h
  obtain ⟨hd, hlo, hhi⟩ := units_between (by decide) (by decide) h.1 h.2
  rw [show units 0xBF800000 = -2 ^ 149 by decide] at hlo
  rw [units_one] at hhi
  exact ⟨fle_fmul_left (by decide) hd (by decide) (by rw [show units 0xBF000000 = -2 ^ 148 by decide, units_half]; omega),
    fle_fmul_right (by decide) hd (by decide) (by rw [units_one, units_half]; omega)⟩

/-- Both branches multiply the frequency by a factor from 0.5 to 2.0 (R144, R145, R147). -/
theorem resolveF2_eq_fmul_factor (f1 : F) {det u : F} (hdet : inSample det = true) (hu0 : fle 0x00000000 u = true)
    (hu1 : fle u 0x3F800000 = true) :
    ∃ g : F, resolveF2 f1 det u = fmul f1 g ∧ isFinite g = true ∧ units half ≤ units g ∧ units g ≤ units 0x40000000 := by
  rw [resolveF2]
  split
  case isTrue hpos =>
    have hlo : fle 0xBF000000 det = true := fle_trans (by decide) (fle_of_flt hpos)
    rw [inSample, Bool.and_eq_true] at hdet
    exact ⟨_, rfl, detuneFactor_range hlo hdet.2 hu0 hu1⟩
  case isFalse =>
    obtain ⟨hlo, hhi⟩ := fmul_half_detune_range hdet
    exact ⟨_, rfl, detuneFactor_range hlo hhi hu0 hu1⟩

/-- Settles O38: F1 times a factor from 0.5 to 2.0 rounds no lower than half of F1 and no higher than its double. -/
theorem detunedFrequencyWithinOctave : Obligations.DetunedFrequencyWithinOctave := by
  intro f1 det lfo hpos hlt hdet hlfo
  obtain ⟨hf, -, -⟩ := units_between (by decide) (by decide) (fle_of_flt hpos) (fle_of_flt hlt)
  rw [flt_iff_units (by decide) hf, units_zero] at hpos
  obtain ⟨hu0, hu1⟩ := rescaleLfo_range hlfo
  obtain ⟨g, hF2, hg, hlo, hhi⟩ := resolveF2_eq_fmul_factor f1 hdet hu0 hu1
  have hg0 : 0 < units g := lt_of_lt_of_le (by decide) hlo
  have hhalf : fmul half f1 = fmul f1 half := fmul_comm_of_isFinite (by decide) hf
  have htwo : fmul 0x40000000 f1 = fmul f1 0x40000000 := fmul_comm_of_isFinite (by decide) hf
  rw [hF2, htwo]
  exact ⟨hhalf ▸ fle_fmul_fmul hf (by decide) hg hpos (by decide) hlo, fle_fmul_fmul hf hg (by decide) hpos hg0 hhi⟩

/-! ## The two slopes (R146) -/

/-- Twice a quotient in the normal range rounds one exponent step higher, on the same significand. -/
theorem roundRaw_two_mul {num den : Nat} (hden : 0 < den) (h : 2 ^ 23 * den ≤ num) :
    roundRaw (2 * num) den = 2 ^ 23 + roundRaw num den := by
  have hq : 2 ^ 23 ≤ num / den := (Nat.le_div_iff_mul_le hden).mpr h
  have hhalf : 2 * num / den / 2 = num / den := by rw [Nat.div_div_eq_div_mul, mul_comm den, Nat.mul_div_mul_left _ _ two_pos]
  have hlog : Nat.log2 (2 * num / den) = Nat.log2 (num / den) + 1 := by
    rw [Nat.log2_def, if_pos (by omega), hhalf]
  have hs : 23 ≤ Nat.log2 (num / den) := (Nat.le_log2 (by omega)).mpr hq
  have hd : den * 2 ^ (Nat.log2 (num / den) + 1 - 23) = 2 * (den * 2 ^ (Nat.log2 (num / den) - 23)) := by
    rw [Nat.sub_add_comm hs, pow_succ]
    ring
  simp only [roundRaw, hlog, hd, Nat.mul_div_mul_left _ _ two_pos, Nat.mul_mod_mul_left]
  split_ifs <;> omega

/-- One exponent step higher is twice the magnitude, from the least normal value on. -/
theorem unitsOfBits_step {b : Nat} (h : 2 ^ 23 ≤ b) : unitsOfBits (2 ^ 23 + b) = 2 * unitsOfBits b := by
  obtain ⟨s, q, rfl, hq, hs⟩ := exists_step_significand b
  rw [← add_assoc, ← mul_one_add, unitsOfBits_at s q hq.le hs, unitsOfBits_at (1 + s) q hq.le (by omega), pow_add]
  ring

/-- Doubling one factor doubles a rounded product that is in the normal range before and after. -/
theorem units_fmul_of_double {a h b : F} (ha : isFinite a = true) (hh : isFinite h = true) (hb : isFinite b = true)
    (hdouble : units a = 2 * units h) (hh0 : 0 < units h) (hb0 : 0 < units b) (hlo : 2 ^ 172 ≤ units h * units b)
    (hhi : units h * units b ≤ 2 ^ 400) : units (fmul a b) = 2 * units (fmul h b) := by
  have ha0 : 0 < units a := by omega
  obtain ⟨-, hma⟩ := magUnits_of_pos ha0
  obtain ⟨-, hmh⟩ := magUnits_of_pos hh0
  obtain ⟨-, hmb⟩ := magUnits_of_pos hb0
  have hmag : magUnits a * magUnits b = 2 * (magUnits h * magUnits b) := by
    rw [show magUnits a = 2 * magUnits h by omega, mul_assoc]
  rw [← hmh, ← hmb] at hlo hhi
  norm_cast at hlo hhi
  have hstep := roundRaw_two_mul (den := 2 ^ 149) (by positivity) (show 2 ^ 23 * 2 ^ 149 ≤ magUnits h * magUnits b by omega)
  have hmax : roundRaw (2 * (magUnits h * magUnits b)) (2 ^ 149) < 0x7F800000 :=
    (roundRaw_lt_inf_iff (by positivity)).mpr (by omega)
  have hmin : 2 ^ 23 ≤ roundRaw (magUnits h * magUnits b) (2 ^ 149) :=
    le_roundRaw (by positivity) (by rw [show unitsOfBits (2 ^ 23) = 2 ^ 23 by decide]; omega)
  rw [fmul_of_pos ha hb ha0 hb0, fmul_of_pos hh hb hh0 hb0, hmag, roundBits_eq, roundBits_eq, min_eq_left hmax.le,
    min_eq_left (by omega), units_packF _ (by omega), units_packF _ (by omega), hstep, unitsOfBits_step hmin]
  simp

/-- A value above the subnormals halves exactly. -/
theorem units_fmul_half {d : F} (hd : isFinite d = true) (h : 2 ^ 24 ≤ units d) :
    isFinite (fmul half d) = true ∧ units d = 2 * units (fmul half d) := by
  obtain ⟨e, he, hdvd, hlt⟩ := exists_finite_units_iff.mp ⟨d, hd, rfl⟩
  cases e with
  | zero => rw [abs_of_nonneg (by omega)] at hlt; omega
  | succ e =>
    obtain ⟨k, hk⟩ := hdvd
    have hk' : units d = 2 * (2 ^ e * k) := by rw [hk, pow_succ]; ring
    have hbound : |2 ^ e * k| < 2 ^ 24 * 2 ^ e := by
      rw [abs_of_nonneg (by omega)] at hlt ⊢
      rw [pow_succ] at hlt
      omega
    obtain ⟨y, hy, hyu⟩ := exists_finite_units_iff.mpr ⟨e, by omega, Dvd.intro k rfl, hbound⟩
    obtain ⟨hf, hu⟩ := units_fmul (a := half) (by decide) hd hy (by rw [units_half, hyu, hk']; ring)
    exact ⟨hf, by rw [hu, hyu, hk']⟩

theorem magUnits_fneg (x : F) : magUnits (fneg x) = magUnits x := by
  rw [magUnits, fneg, magBits_packF _ (magBits_lt x), magUnits]

theorem fneg_packF (neg : Bool) {b : Nat} (hb : b < 2 ^ 31) : fneg (packF neg b) = packF (!neg) b := by
  rw [fneg, signBit_packF neg hb, magBits_packF neg hb]

/-- Negating a factor negates the rounded product. -/
theorem fmul_fneg_right {a b : F} (ha : isFinite a = true) (hb : isFinite b = true) : fmul a (fneg b) = fneg (fmul a b) := by
  have hinf := roundBits_le_inf (magUnits a * magUnits b) (2 ^ 149)
  rw [fmul_finite ha (by rwa [isFinite_fneg]), fmul_finite ha hb, fneg_packF _ (by omega), magUnits_fneg, signBit_fneg,
    Bool.bne_not]

theorem fmul_fneg_left {a b : F} (ha : isFinite a = true) (hb : isFinite b = true) : fmul (fneg a) b = fneg (fmul a b) := by
  rw [fmul_comm_of_isFinite (by rwa [isFinite_fneg]) hb, fmul_fneg_right hb ha, fmul_comm_of_isFinite hb ha]

/-- Settles O58: the halving of the detune is exact, the sign passes through, and the product of the full detune is in the normal
range, where doubling commutes with rounding; the worked frequencies are computed. -/
theorem positiveDetuneTermIsDouble : Obligations.PositiveDetuneTermIsDouble := by
  refine ⟨fun det u hd1 hd2 hu1 hu2 => ?terms, by decide, by decide⟩
  case terms =>
    obtain ⟨hd, hdlo, hdhi⟩ := units_between (by decide) (by decide) hd1 hd2
    obtain ⟨hu, hulo, huhi⟩ := units_between (by decide) (by decide) hu1 hu2
    rw [show units 0x21800000 = 2 ^ 89 by decide] at hdlo hulo
    rw [show units 0x44239666 = 10720870 * 2 ^ 135 by decide] at hdhi
    rw [units_one] at huhi
    obtain ⟨hh, hdouble⟩ := units_fmul_half hd (by omega)
    have hlo : 2 ^ 88 * 2 ^ 89 ≤ units (fmul half det) * units u :=
      mul_le_mul (by omega) hulo (by positivity) (by omega)
    have hhi : units (fmul half det) * units u ≤ 2 ^ 159 * 2 ^ 149 :=
      mul_le_mul (by omega) huhi (by omega) (by positivity)
    have hneg : fmul (fmul 0x3F000000 (fneg det)) u = fneg (fmul (fmul half det) u) :=
      fmul_fneg_right (a := half) (by decide) hd ▸ fmul_fneg_left hh hu
    rw [hneg, units_fneg, units_fmul_of_double hd hh hu hdouble (by omega) (by omega) (by omega) (by omega)]
    ring

/-! ## A NaN lfo (R148) -/

theorem isNaN_fadd {a b : F} (h : isNaN a = true ∨ isNaN b = true) : isNaN (fadd a b) = true := by
  rw [fadd, sumWith, if_pos (by simpa using h), isNaN_quietNaN]

theorem isNaN_fmul {a b : F} (h : isNaN a = true ∨ isNaN b = true) : isNaN (fmul a b) = true := by
  rw [fmul, if_pos (by simpa using h), isNaN_quietNaN]

theorem isNaN_fdiv {a b : F} (h : isNaN a = true ∨ isNaN b = true) : isNaN (fdiv a b) = true := by
  rw [fdiv, if_pos (by simpa using h), isNaN_quietNaN]

/-- A NaN `lfo` passes through every operation of the resolver to W2. -/
theorem isNaN_resolve_w2 {lfo : F} (h : isNaN lfo = true) (note mod : Byte) (det : F) :
    isNaN (resolve note mod lfo det).w2 = true := by
  have hterm : ∀ d : F, isNaN (fmul (noteHz note mod) (fadd one (fmul d (rescaleLfo lfo)))) = true := fun d =>
    isNaN_fmul (.inr (isNaN_fadd (.inr (isNaN_fmul (.inr (isNaN_fmul (.inl (isNaN_fadd (.inl h)))))))))
  have hF2 : isNaN (resolveF2 (noteHz note mod) det (rescaleLfo lfo)) = true := by
    rw [resolveF2]
    split <;> exact hterm _
  exact isNaN_fdiv (.inl hF2)

theorem reachesOne_of_isNaN {x : F} (h : isNaN x = true) : reachesOne x = false := by
  rw [reachesOne, fle, h]
  simp

/-- Without sync a NaN in the advanced PH2 stays there: it does not reach 1, so it is not wrapped (43_cycle R169, R171). -/
theorem isNaN_wrapPolicy_ph2 {sync : Half} {a2 : F} (hsync : sync ≠ 1) (h : isNaN a2 = true) (k : Nat) (a1 : F) :
    isNaN (wrapPolicy sync k a1 a2).ph2 = true := by
  obtain ⟨-, hs, -⟩ | ⟨-, -, hw⟩ | ⟨-, hr, -⟩ | ⟨-, -, hw⟩ := wrapPolicy_cases sync k a1 a2
  · exact absurd hs hsync
  · rwa [hw]
  · rw [reachesOne_of_isNaN h] at hr
    cases hr
  · rwa [hw]

/-- Settles O56: W2 is a NaN, so the last sample step leaves one in PH2 whatever the steps before it did. -/
theorem naNLfoReachesPhase2 : Obligations.NaNLfoReachesPhase2 := by
  intro s note mod lfo frames hlfo hframes hsync
  obtain ⟨k, hk⟩ : ∃ k, frames.toNat = k + 1 := Nat.exists_eq_succ_of_ne_zero fun h => hframes (BitVec.eq_of_toNat_eq h)
  refine ⟨_, rfl, ?_⟩
  have hlatches := sampleSteps_latches (s := cycleStart note mod lfo s) rfl k
  obtain ⟨hvoice, -⟩ := sampleSteps_frame k (cycleStart note mod lfo s)
  have hsync' : (sampleSteps k (cycleStart note mod lfo s)).voice.sync ≠ 1 := by rw [hvoice]; exact hsync
  rw [retire_voice, cycleUpTo, hk, sampleSteps_succ_last, sampleStep_of_latches hlatches, sampleStepWith_voice]
  exact isNaN_wrapPolicy_ph2 hsync' (isNaN_fadd (.inr (isNaN_resolve_w2 hlfo note mod s.voice.det))) _ _

end Sys2Proof.Machine
end

section
/-! PROOFS. The cycle family: the wraparound policy (43_cycle R167 to R172), the phases in runs within the contracts (R173), the split
of a CYCLE (R162), and the mixer (R164, R175). -/

namespace Sys2Proof.Machine

/-! ## The wraparound policy -/

/-- Oscillator 1 wraps, and sync decides `PH2` (R167 to R170). -/
theorem wrapPolicy_of_reachesOne {a1 : F} (h : reachesOne a1 = true) (sync : Half) (k : Nat) (a2 : F) :
    wrapPolicy sync k a1 a2 = ⟨wrapPhase k a1, if sync = 1 then wrapPhase k a1 else a2, castUse a1⟩ := by
  simp [wrapPolicy, h, syncEnabled_iff]

/-- Oscillator 1 does not wrap: oscillator 2 wraps by itself, and sync has no influence (R171). -/
theorem wrapPolicy_of_not_reachesOne {a1 : F} (h : reachesOne a1 = false) (sync : Half) (k : Nat) (a2 : F) :
    wrapPolicy sync k a1 a2 =
      ⟨a1, if reachesOne a2 = true then wrapPhase k a2 else a2, if reachesOne a2 = true then castUse a2 else 0⟩ := by
  rw [wrapPolicy, if_neg (by rw [h]; decide)]
  split <;> rfl

section
variable {s : State} {l : Latches} (hl : s.latches = some l)
include hl

/-- The phases after a sample step in which oscillator 1 wraps. -/
theorem sampleStep_phases_of_wrap (h : reachesOne (fadd s.voice.ph1 l.w1) = true) :
    (sampleStep s).voice.ph1 = wrapPhase s.draws.cast (fadd s.voice.ph1 l.w1) ∧
      (sampleStep s).voice.ph2 = if s.voice.sync = 1 then (sampleStep s).voice.ph1 else fadd s.voice.ph2 l.w2 := by
  rw [sampleStep_of_latches hl, sampleStepWith_voice, wrapPolicy_of_reachesOne h]
  exact ⟨rfl, rfl⟩

/-- The phases after a sample step in which oscillator 1 does not wrap. -/
theorem sampleStep_phases_of_no_wrap (h : reachesOne (fadd s.voice.ph1 l.w1) = false) :
    (sampleStep s).voice.ph1 = fadd s.voice.ph1 l.w1 ∧
      (sampleStep s).voice.ph2 = if reachesOne (fadd s.voice.ph2 l.w2) = true
        then wrapPhase s.draws.cast (fadd s.voice.ph2 l.w2) else fadd s.voice.ph2 l.w2 := by
  rw [sampleStep_of_latches hl, sampleStepWith_voice, wrapPolicy_of_not_reachesOne h]
  exact ⟨rfl, rfl⟩

end

/-- Settles O49: there is no sample step to run. -/
theorem cycleOfZeroFrames : Obligations.CycleOfZeroFrames := fun _ _ _ _ => rfl

/-- Settles O40: the loop makes one sample step, which writes slot 0; its phases are those of the two branches of the policy. -/
theorem cycleOfOneFrame : Obligations.CycleOfOneFrame := by
  intro s note mod lfo l s1 s2 y a1 a2
  have hl : (cycleStart note mod lfo s).latches = some l := rfl
  exact ⟨retire (sampleStep (cycleStart note mod lfo s)), rfl, Memory.read_write_same s.out 0 y,
    fun i hi => Memory.read_write_other s.out y hi, rfl, rfl, rfl, rfl, rfl, rfl, rfl, rfl, rfl, rfl,
    sampleStep_phases_of_wrap hl, sampleStep_phases_of_no_wrap hl⟩

/-- Settles O41: where oscillator 1 wraps, `PH2` is chosen by sync; where it does not, the phases after the step do not depend on
sync. -/
theorem hardSyncForcesPhase2 : Obligations.HardSyncForcesPhase2 := by
  intro s l hl
  refine ⟨fun hwrap hsync => ?enabled, fun hwrap hsync => ?other, fun hstay v => ?stays⟩
  case enabled => rw [(sampleStep_phases_of_wrap hl hwrap).2, if_pos hsync]
  case other => rw [(sampleStep_phases_of_wrap hl hwrap).2, if_neg hsync]
  case stays =>
    obtain ⟨h1, h2⟩ := sampleStep_phases_of_no_wrap hl hstay
    obtain ⟨h1', h2'⟩ := sampleStep_phases_of_no_wrap (s := { s with voice := { s.voice with sync := v } }) hl hstay
    exact ⟨h1'.trans h1.symm, h2'.trans h2.symm⟩

/-- Settles O42: the two branches of the policy, the first by whether sync is enabled. -/
theorem phase2WrapsOnlyAlone : Obligations.Phase2WrapsOnlyAlone := by
  intro s l hl
  refine ⟨fun hwrap => ?wraps, sampleStep_phases_of_no_wrap hl⟩
  case wraps =>
    obtain ⟨h1, h2⟩ := sampleStep_phases_of_wrap hl hwrap
    by_cases hsync : s.voice.sync = 1
    · exact ⟨h1, .inl ⟨h2.trans (if_pos hsync), hsync⟩⟩
    · exact ⟨h1, .inr ⟨h2.trans (if_neg hsync), hsync⟩⟩

/-! ## Strict bounds -/

/-- What is below a value is at or below the value before it. -/
theorem fle_of_flt_succ {x b c : F} (hb : isNaN b = false) (hc : orderKey c = orderKey b + 1) (h : flt x c = true) :
    fle x b = true := by
  simp only [flt, fle, Bool.and_eq_true, decide_eq_true_eq, Bool.not_eq_true'] at h ⊢
  obtain ⟨⟨hx, -⟩, hlt⟩ := h
  exact ⟨⟨hx, hb⟩, by omega⟩

theorem flt_of_fle_of_flt {a b c : F} (h1 : fle a b = true) (h2 : flt b c = true) : flt a c = true := by
  simp only [flt, fle, Bool.and_eq_true, decide_eq_true_eq] at h1 h2 ⊢
  obtain ⟨⟨ha, -⟩, hab⟩ := h1
  obtain ⟨⟨-, hc⟩, hbc⟩ := h2
  exact ⟨⟨ha, hc⟩, hab.trans_lt hbc⟩

theorem flt_irrefl (x : F) : flt x x = false := by simp [flt]

/-- What is below 1 does not reach 1. -/
theorem not_reachesOne_of_flt {x : F} (h : flt x 0x3F800000 = true) : reachesOne x = false := by
  rw [← Bool.not_eq_true]
  intro h1
  have := flt_of_fle_of_flt h1 h
  rw [flt_irrefl] at this
  cases this

theorem inUnit_iff {x : F} : inUnit x = true ↔ fle 0x00000000 x = true ∧ flt x 0x3F800000 = true := Bool.and_eq_true_iff

/-- The value before 1. -/
theorem units_before_one : units 0x3F7FFFFF = 2 ^ 149 - 2 ^ 125 := by decide

theorem units_le_before_one {x : F} (h0 : fle 0x00000000 x = true) (h : flt x 0x3F800000 = true) :
    isFinite x = true ∧ units x ≤ 2 ^ 149 - 2 ^ 125 := by
  obtain ⟨hf, -, hle⟩ := units_between (by decide) (by decide) h0 (fle_of_flt_succ (b := 0x3F7FFFFF) (by decide) (by decide) h)
  exact ⟨hf, units_before_one ▸ hle⟩

/-! ## One sample step within the contracts (R173) -/

/-- The bound of R173 (c) on `W1`, 0.5 - 2^-22. -/
theorem units_w1_bound : units 0x3EFFFFF8 = 2 ^ 148 - 2 ^ 127 := by decide

section
variable {p w : F} (hw0 : fle 0x00000000 w = true) (hw : fle w 0x3EFFFFF8 = true)
include hw0 hw

/-- A phase and an increment both at most 0.5 - 2^-22 add up to less than 1. -/
theorem not_reachesOne_fadd (hp0 : fle 0x00000000 p = true) (hp : fle p 0x3EFFFFF8 = true) : reachesOne (fadd p w) = false := by
  obtain ⟨hwf, -, hw1⟩ := units_between (by decide) (by decide) hw0 hw
  obtain ⟨hpf, -, hp1⟩ := units_between (by decide) (by decide) hp0 hp
  rw [units_w1_bound] at hw1 hp1
  have hle : fle (fadd p w) 0x3F7FFFFF = true := fle_fadd_right hpf hwf (by decide) (by rw [units_before_one]; omega)
  exact not_reachesOne_of_flt (flt_of_fle_of_flt hle (by decide))

theorem fadd_ph1_range (hp : inUnit p = true) :
    isFinite (fadd p w) = true ∧ fle 0x00000000 (fadd p w) = true ∧ flt (fadd p w) 0x4F800000 = true :=
  fadd_phase_range hp hw0 (flt_of_fle_of_flt hw (by decide))

/-- The wrap leaves oscillator 1's phase in [0,1) and at most 0.5 - 2^-22, because the sum was at most 1.5 - 2^-22. -/
theorem wrapPhase_ph1_range (hp : inUnit p = true) (h : reachesOne (fadd p w) = true) (k : Nat) :
    inUnit (wrapPhase k (fadd p w)) = true ∧ fle (wrapPhase k (fadd p w)) 0x3EFFFFF8 = true := by
  obtain ⟨haf, -, halt⟩ := fadd_ph1_range hw0 hw hp
  obtain ⟨hwrapf, hu, hunit⟩ := wrapIsExact.1 k _ h halt
  obtain ⟨hwf, -, hw1⟩ := units_between (by decide) (by decide) hw0 hw
  obtain ⟨hp0, hp1⟩ := inUnit_iff.mp hp
  obtain ⟨hpf, hp1⟩ := units_le_before_one hp0 hp1
  have hmax : units 0x3FBFFFFE = 2 ^ 149 + 2 ^ 148 - 2 ^ 127 := by decide
  rw [units_w1_bound] at hw1
  have hhi : fle (fadd p w) 0x3FBFFFFE = true := fle_fadd_right hpf hwf (by decide) (by rw [hmax]; omega)
  rw [fle_iff_units haf (by decide), hmax] at hhi
  rw [reachesOne, fle_iff_units (by decide) haf, units_one] at h
  refine ⟨hunit, ?_⟩
  rw [fle_iff_units hwrapf (by decide), hu, units_w1_bound]
  omega

end

section
variable {p w : F} (hp0 : fle 0x00000000 p = true) (hw0 : fle 0x00000000 w = true) (hw : flt w 0x3F800000 = true)
include hp0 hw0 hw

/-- An increment below 1 takes a phase past a value of `F` by at most 1. -/
theorem fle_fadd_increment {y z : F} (hy : isFinite y = true) (hz : isFinite z = true) (h : units y + 2 ^ 149 ≤ units z)
    (hp : fle p y = true) : fle (fadd p w) z = true := by
  obtain ⟨hpf, -, hp1⟩ := units_between (by decide) hy hp0 hp
  obtain ⟨hwf, hw1⟩ := units_le_before_one hw0 hw
  exact fle_fadd_right hpf hwf hz (by omega)

/-- A phase and an increment both below 1 add up to less than 2: 2 - 2^-23 is a value of `F`. -/
theorem fadd_lt_two (hp : flt p 0x3F800000 = true) : flt (fadd p w) 0x40000000 = true := by
  obtain ⟨hpf, hp1⟩ := units_le_before_one hp0 hp
  obtain ⟨hwf, hw1⟩ := units_le_before_one hw0 hw
  have hhi : fle (fadd p w) 0x3FFFFFFF = true :=
    fle_fadd_right hpf hwf (by decide) (by rw [show units 0x3FFFFFFF = 2 ^ 150 - 2 ^ 126 by decide]; omega)
  exact flt_of_fle_of_flt hhi (by decide)

end

/-- Increments within the contracts, by the bounds of R173: `W1` from 0 to 0.5 - 2^-22 and `W2` in [0,1). -/
structure IncrementsInContract (w1 w2 : F) : Prop where
  w1_nonneg : fle 0x00000000 w1 = true
  w1_le : fle w1 0x3EFFFFF8 = true
  w2_nonneg : fle 0x00000000 w2 = true
  w2_lt_one : flt w2 0x3F800000 = true

/-- A sample step in which oscillator 1 wraps leaves `PH1` in [0,1) and at most 0.5 - 2^-22. -/
theorem sampleStep_ph1_of_wrap {s : State} {l : Latches} (hl : s.latches = some l) (hw0 : fle 0x00000000 l.w1 = true)
    (hw : fle l.w1 0x3EFFFFF8 = true) (hp : inUnit s.voice.ph1 = true)
    (hwrap : reachesOne (fadd s.voice.ph1 l.w1) = true) :
    inUnit (sampleStep s).voice.ph1 = true ∧ fle (sampleStep s).voice.ph1 0x3EFFFFF8 = true := by
  rw [(sampleStep_phases_of_wrap hl hwrap).1]
  exact wrapPhase_ph1_range hw0 hw hp hwrap _

/-- A sample step in which oscillator 1 does not wrap leaves both phases in [0,1), also from a `PH2` left un-wrapped (R171). -/
theorem sampleStep_inUnit_of_no_wrap {s : State} {l : Latches} (hl : s.latches = some l)
    (hc : IncrementsInContract l.w1 l.w2) (hp1 : inUnit s.voice.ph1 = true) (hp20 : fle 0x00000000 s.voice.ph2 = true)
    (hp2 : fle s.voice.ph2 0x40400000 = true) (hstay : reachesOne (fadd s.voice.ph1 l.w1) = false) :
    inUnit (sampleStep s).voice.ph1 = true ∧ inUnit (sampleStep s).voice.ph2 = true := by
  obtain ⟨hf1, h10, -⟩ := fadd_ph1_range hc.w1_nonneg hc.w1_le hp1
  have h20 := fadd_nonneg hp20 hc.w2_nonneg
  have h24 : fle (fadd s.voice.ph2 l.w2) 0x40800000 = true :=
    fle_fadd_increment hp20 hc.w2_nonneg hc.w2_lt_one (by decide) (by decide) (by decide) hp2
  obtain ⟨h1, h2⟩ := sampleStep_phases_of_no_wrap hl hstay
  rw [h1, h2]
  refine ⟨inUnit_of_not_reachesOne hf1 h10 hstay, ?_⟩
  split
  case isTrue hreach => exact inUnit_wrapPhase _ hreach (flt_of_fle_of_flt h24 (by decide))
  case isFalse hreach =>
    exact inUnit_of_not_reachesOne (isFinite_of_between (by decide) (by decide) h20 h24) h20 (by rwa [Bool.not_eq_true] at hreach)

/-- Settles O46: the wrap leaves `PH1` too small for a second one. -/
theorem noTwoWrapsInARow : Obligations.NoTwoWrapsInARow := by
  intro s l hl hp hw0 hw hwrap
  obtain ⟨hunit, hsmall⟩ := sampleStep_ph1_of_wrap hl hw0 hw hp hwrap
  exact not_reachesOne_fadd hw0 hw (inUnit_iff.mp hunit).1 hsmall

/-- Settles O47: a step in which oscillator 1 does not wrap leaves `PH2` below 1, and after one in which it wraps the next is such a
step. -/
theorem unwrappedPhase2LastsOneStep : Obligations.UnwrappedPhase2LastsOneStep := by
  intro s l hl hp hp20 hp2 hw0 hw hw20 hw2
  have hc : IncrementsInContract l.w1 l.w2 := ⟨hw0, hw, hw20, hw2⟩
  by_cases hwrap : reachesOne (fadd s.voice.ph1 l.w1) = true
  case pos =>
    right
    have hl' : (sampleStep s).latches = some { l with n := l.n + 1 } := by
      rw [sampleStep_of_latches hl, sampleStepWith_latches]
    obtain ⟨hunit, hsmall⟩ := sampleStep_ph1_of_wrap hl hw0 hw hp hwrap
    obtain ⟨h10, h11⟩ := inUnit_iff.mp hunit
    have hph2 : fle 0x00000000 (sampleStep s).voice.ph2 = true ∧ fle (sampleStep s).voice.ph2 0x40400000 = true := by
      rw [(sampleStep_phases_of_wrap hl hwrap).2]
      split
      · exact ⟨h10, fle_trans (fle_of_flt h11) (by decide)⟩
      · exact ⟨fadd_nonneg hp20 hw20, fle_fadd_increment hp20 hw20 hw2 (by decide) (by decide) (by decide) (fle_of_flt hp2)⟩
    have hstay := not_reachesOne_fadd hw0 hw h10 hsmall
    exact (inUnit_iff.mp (sampleStep_inUnit_of_no_wrap hl' hc hunit hph2.1 hph2.2 hstay).2).2
  case neg =>
    left
    rw [Bool.not_eq_true] at hwrap
    have hp23 : fle s.voice.ph2 0x40400000 = true := fle_trans (fle_of_flt hp2) (by decide)
    exact (inUnit_iff.mp (sampleStep_inUnit_of_no_wrap hl hc hp hp20 hp23 hwrap).2).2

/-! ## The invariant of runs within the contracts (R173) -/

/-- With both phases in [0,1) no `PH2` is left un-wrapped. -/
theorem phaseInv_of_inUnit {v : Voice} (h1 : inUnit v.ph1 = true) (h2 : inUnit v.ph2 = true) (hdet : inSample v.det = true) :
    v.PhaseInv := by
  obtain ⟨h20, h21⟩ := inUnit_iff.mp h2
  refine ⟨h1, h20, flt_of_fle_of_flt (fle_of_flt h21) (by decide), fun hreach => ?_, hdet⟩
  rw [not_reachesOne_of_flt h21] at hreach
  cases hreach

/-- INIT leaves the invariant with any two draws in [0,1) (44_lifecycle R191, R192). -/
theorem initVoice_phaseInv {p q : F} (hp : inUnit p = true) (hq : inUnit q = true) : (initVoice p q).PhaseInv :=
  phaseInv_of_inUnit hp hq (show inSample half = true by decide)

theorem Voice.PhaseInv.congr {v v' : Voice} (h : v.PhaseInv) (h1 : v'.ph1 = v.ph1) (h2 : v'.ph2 = v.ph2)
    (hdet : inSample v'.det = true) : v'.PhaseInv :=
  ⟨h1 ▸ h.ph1, h2 ▸ h.ph2_nonneg, h2 ▸ h.ph2_lt_two, by rw [h1, h2]; exact h.unwrapped, hdet⟩

/-- A `PH2` left un-wrapped keeps oscillator 1 from wrapping, so in a step in which it wraps `PH2` is below 1. -/
theorem Voice.PhaseInv.ph2_lt_one_of_wrap {v : Voice} (h : v.PhaseInv) {w : F} (hw0 : fle 0x00000000 w = true)
    (hw : fle w 0x3EFFFFF8 = true) (hwrap : reachesOne (fadd v.ph1 w) = true) : flt v.ph2 0x3F800000 = true := by
  have hph2f : isFinite v.ph2 = true := isFinite_of_between (by decide) (by decide) h.ph2_nonneg (fle_of_flt h.ph2_lt_two)
  have hreach : reachesOne v.ph2 = false := by
    rw [← Bool.not_eq_true]
    intro hreach
    rw [not_reachesOne_fadd hw0 hw (inUnit_iff.mp h.ph1).1 (h.unwrapped hreach)] at hwrap
    cases hwrap
  exact (inUnit_iff.mp (inUnit_of_not_reachesOne hph2f h.ph2_nonneg hreach)).2

/-- A sample step keeps the invariant: `PH2` is left un-wrapped only by a wrap of oscillator 1, which leaves `PH1` small. -/
theorem sampleStep_phaseInv {s : State} {l : Latches} (hl : s.latches = some l) (hc : IncrementsInContract l.w1 l.w2)
    (hs : s.voice.PhaseInv) : (sampleStep s).voice.PhaseInv := by
  have hdet : inSample (sampleStep s).voice.det = true := by
    rw [(sampleStep_frame s).1]
    exact hs.det
  by_cases hwrap : reachesOne (fadd s.voice.ph1 l.w1) = true
  case pos =>
    obtain ⟨hunit, hsmall⟩ := sampleStep_ph1_of_wrap hl hc.w1_nonneg hc.w1_le hs.ph1 hwrap
    have hlt := hs.ph2_lt_one_of_wrap hc.w1_nonneg hc.w1_le hwrap
    by_cases hsync : s.voice.sync = 1
    · refine phaseInv_of_inUnit hunit ?_ hdet
      rw [(sampleStep_phases_of_wrap hl hwrap).2, if_pos hsync]
      exact hunit
    · have hph2 := (sampleStep_phases_of_wrap hl hwrap).2
      rw [if_neg hsync] at hph2
      exact ⟨hunit, hph2 ▸ fadd_nonneg hs.ph2_nonneg hc.w2_nonneg,
        hph2 ▸ fadd_lt_two hs.ph2_nonneg hc.w2_nonneg hc.w2_lt_one hlt, fun _ => hsmall, hdet⟩
  case neg =>
    rw [Bool.not_eq_true] at hwrap
    obtain ⟨h1, h2⟩ := sampleStep_inUnit_of_no_wrap hl hc hs.ph1 hs.ph2_nonneg
      (fle_trans (fle_of_flt hs.ph2_lt_two) (by decide)) hwrap
    exact phaseInv_of_inUnit h1 h2 hdet

theorem sampleSteps_phaseInv {s : State} {l : Latches} (hl : s.latches = some l) (hc : IncrementsInContract l.w1 l.w2)
    (hs : s.voice.PhaseInv) (k : Nat) : (sampleSteps k s).voice.PhaseInv := by
  obtain ⟨-, -, -, -, h⟩ := sampleSteps_induct_latches (P := fun _ s => s.voice.PhaseInv) (w1 := l.w1) (w2 := l.w2)
    (fun l' s hl' h1 h2 hs => sampleStep_of_latches hl' ▸ sampleStep_phaseInv hl' (h1 ▸ h2 ▸ hc) hs) hl rfl rfl hs k
  exact h

/-- A `W1` of at most 0.5 - 2^-22 comes from a frequency below 24000.0. -/
theorem lt_nyquist_of_increment {f1 : F} (hpos : flt 0x00000000 f1 = true) (hw : fle (fdiv f1 0x473B8000) 0x3EFFFFF8 = true) :
    isFinite f1 = true ∧ flt f1 0x46BB8000 = true := by
  obtain ⟨hf, -⟩ | rfl := finite_or_inf_of_nonneg (fle_of_flt hpos)
  · refine ⟨hf, ?_⟩
    by_contra hge
    rw [flt_iff_units hf (by decide), not_lt] at hge
    have hhalf : fle 0x3F000000 (fdiv f1 0x473B8000) = true :=
      fle_fdiv_left hf (by decide) (by decide) (by decide) (by
        rw [show units 0x46BB8000 = 24000 * 2 ^ 149 by decide] at hge
        rw [show units 0x473B8000 = 48000 * 2 ^ 149 by decide, show units 0x3F000000 = 2 ^ 148 by decide]
        omega)
    exact absurd (fle_trans hhalf hw) (by decide)
  · exact absurd hw (by decide)

/-- A frequency below 24000.0 detuned within an octave is at most 48000 - 2^-8, whose increment is below 1 (R147, R173). -/
theorem increments_inContract {f1 det lfo : F} (hdet : inSample det = true) (hlfo : inSample lfo = true)
    (hpos : flt 0x00000000 f1 = true) (hw : fle (fdiv f1 0x473B8000) 0x3EFFFFF8 = true) :
    IncrementsInContract (fdiv f1 0x473B8000) (fdiv (resolveF2 f1 det (rescaleLfo lfo)) 0x473B8000) := by
  obtain ⟨hf, hlt⟩ := lt_nyquist_of_increment hpos hw
  obtain ⟨hlo, hhi⟩ := detunedFrequencyWithinOctave f1 det lfo hpos hlt hdet hlfo
  have hf1 : fle f1 0x46BB7FFF = true := fle_of_flt_succ (by decide) (by decide) hlt
  rw [fle_iff_units hf (by decide), show units 0x46BB7FFF = 24000 * 2 ^ 149 - 2 ^ 140 by decide] at hf1
  have hf0 := (fle_zero_iff_units hf).mp (fle_of_flt hpos)
  have hmax : units 0x473B7FFF = 48000 * 2 ^ 149 - 2 ^ 141 := by decide
  have hlo0 : fle 0x00000000 (resolveF2 f1 det (rescaleLfo lfo)) = true :=
    fle_trans (fmul_nonneg (by decide) hf (by decide) hf0) hlo
  have hhi1 : fle (resolveF2 f1 det (rescaleLfo lfo)) 0x473B7FFF = true :=
    fle_trans hhi (fle_fmul_right (by decide) hf (by decide) (by rw [units_two, hmax]; omega))
  obtain ⟨hf2, -, hle⟩ := units_between (by decide) (by decide) hlo0 hhi1
  have hw2 : fle (fdiv (resolveF2 f1 det (rescaleLfo lfo)) 0x473B8000) 0x3F7FFFFF = true :=
    fle_fdiv_right hf2 (by decide) (by decide) (by decide) (by
      rw [units_before_one, show units 0x473B8000 = 48000 * 2 ^ 149 by decide]
      omega)
  exact ⟨increment_nonneg (fle_of_flt hpos), hw, increment_nonneg hlo0, flt_of_fle_of_flt hw2 (by decide)⟩

/-- A raw detune of at most 200 is stored as a value in [-1,1] (41_param R124). -/
theorem inSample_scaleDetune {v : Half} (h : v.toNat ≤ 200) : inSample (scaleDetune v) = true := by
  rw [inSample, Bool.and_eq_true]
  exact ⟨fle_hundredths_left (by omega) (by decide) (by rw [show units 0xBF800000 = -2 ^ 149 by decide]; omega),
    fle_hundredths_right (by omega) (by decide) (by rw [units_one]; omega)⟩

/-- Every command but CYCLE keeps the invariant: INIT draws both phases from [0,1), no PARAM writes a phase. -/
theorem exec_phaseInv {i : Instr} {s t : State} (hs : s.voice.PhaseInv)
    (hne : ∀ note mod lfo frames, i ≠ .cycle note mod lfo frames) (hdet : ∀ v, i = .paramDet v → v.toNat ≤ 200)
    (h : exec i s = .next t) : t.voice.PhaseInv := by
  cases exec_effect h with
  | init => exact initVoice_phaseInv (inUnit_randPhase _ _) (inUnit_randPhase _ _)
  | cycle note mod lfo frames => exact absurd rfl (hne note mod lfo frames)
  | paramDet v => exact hs.congr rfl rfl (inSample_scaleDetune (hdet v rfl))
  | paramWf1 => exact hs.congr rfl rfl hs.det
  | paramWf2 => exact hs.congr rfl rfl hs.det
  | paramBal => exact hs.congr rfl rfl hs.det
  | paramSync => exact hs.congr rfl rfl hs.det
  | nothing => exact hs

/-- Settles O57: INIT draws both phases from [0,1), the other commands by `exec_phaseInv`, the sample steps by
`sampleSteps_phaseInv`, and a CYCLE runs its sample steps from the latches of the resolver. -/
theorem contractRunsKeepPhases : Obligations.ContractRunsKeepPhases := by
  refine ⟨fun s platformId apiVersion => ?init, fun i s hs hne hdet => ?other, fun s l lfo f1 k hl hs hlfo hpos h1 h2 hw => ?steps,
    fun s note mod lfo frames => ?cycle⟩
  case init => exact ⟨_, rfl, initVoice_phaseInv (inUnit_randPhase _ _) (inUnit_randPhase _ _)⟩
  case other =>
    obtain ⟨t, ht, -⟩ := exec_of_ne_cycle hne s s.out s.outPort
    exact ⟨t, ht, exec_phaseInv hs hne hdet ht⟩
  case steps =>
    rw [lfoInContract, Bool.and_eq_true] at hlfo
    have hc := increments_inContract hs.det hlfo.2 hpos (h1 ▸ hw)
    rw [← h1, ← h2] at hc
    exact sampleSteps_phaseInv hl hc hs k
  case cycle =>
    exact ⟨_, cycleStart note mod lfo s, resolve note mod lfo s.voice.det, rfl, rfl, rfl, rfl, rfl, (noteHz_spec note mod).2, rfl⟩

/-! ## A CYCLE in two parts (R162) -/

/-- `u` is `s` but for the place in OUT: the index `N`, what OUT holds, and the transfers made before. -/
def SameButPlace (s u : State) : Prop :=
  ∃ (l : Latches) (n : Word) (m : Memory) (ts : List Transfer), s.latches = some l ∧
    u = { s with latches := some { l with n := n }, out := m, outPort := ts }

theorem sampleStep_sameButPlace {s u : State} (h : SameButPlace s u) : SameButPlace (sampleStep s) (sampleStep u) := by
  obtain ⟨l, n, m, ts, hl, rfl⟩ := h
  rw [sampleStep_of_latches hl]
  exact ⟨_, _, _, _, rfl, rfl⟩

theorem sampleSteps_sameButPlace {s u : State} (h : SameButPlace s u) (k : Nat) :
    SameButPlace (sampleSteps k s) (sampleSteps k u) := by
  induction k generalizing s u with
  | zero => exact h
  | succ k ih => exact ih (sampleStep_sameButPlace h)

theorem nthSample_of_sameButPlace {s u : State} (h : SameButPlace s u) (i : Nat) : nthSample u i = nthSample s i := by
  obtain ⟨l, n, m, ts, -, hu⟩ := sampleSteps_sameButPlace h i
  rw [nthSample, hu]
  rfl

/-- A CYCLE with the same operands resolves to the same increments after `a` sample steps as before them: no step writes the
detune. -/
theorem cycleStart_after_cycle (note mod : Byte) (lfo : F) (a : Nat) (s : State) :
    SameButPlace (cycleUpTo note mod lfo a s) (cycleStart note mod lfo (retire (cycleUpTo note mod lfo a s))) := by
  refine ⟨_, 0, (cycleUpTo note mod lfo a s).out, (cycleUpTo note mod lfo a s).outPort,
    sampleSteps_latches (s := cycleStart note mod lfo s) rfl a, ?_⟩
  have hdet : (cycleUpTo note mod lfo a s).voice.det = s.voice.det := by
    rw [cycleUpTo, (sampleSteps_frame a _).1]
    rfl
  rw [cycleStart, retire_voice, hdet]
  rfl

/-- Settles O50: the second CYCLE starts in the state the long one is in after `a` sample steps, but for the place in OUT, so that its
`i`-th sample is the long one's `a + i`-th. -/
theorem cycleSplitsIntoTwo : Obligations.CycleSplitsIntoTwo := by
  intro s note mod lfo a b hab
  have hsum : (a + b).toNat = a.toNat + b.toNat := by rw [BitVec.toNat_add, Nat.mod_eq_of_lt hab]
  set c := cycleStart note mod lfo s
  have hsame := cycleStart_after_cycle note mod lfo a.toNat s
  set c' := cycleStart note mod lfo (retire (cycleUpTo note mod lfo a.toNat s))
  have hsample : ∀ i, nthSample c' i = nthSample c (a.toNat + i) := fun i => by
    rw [nthSample_of_sameButPlace hsame, nthSample, nthSample, sampleSteps_add]
    rfl
  obtain ⟨_, _, _, _, -, hend⟩ := sampleSteps_sameButPlace hsame b.toNat
  have hlong : sampleSteps (a.toNat + b.toNat) c = sampleSteps b.toNat (cycleUpTo note mod lfo a.toNat s) := sampleSteps_add _ _ _
  refine ⟨retire (sampleSteps (a.toNat + b.toNat) c), retire (cycleUpTo note mod lfo a.toNat s), retire (sampleSteps b.toNat c'),
    by rw [← hsum]; rfl, rfl, rfl, ?voice, ?draws, ?random, ?port, fun j hj => ?slots⟩
  case voice | draws | random => rw [hlong, hend]; rfl
  case port =>
    have hport : c'.outPort = (sampleSteps a.toNat c).outPort := rfl
    rw [retire_outPort, retire_outPort, sampleSteps_outPort rfl rfl, sampleSteps_outPort rfl rfl, hport,
      sampleSteps_outPort rfl rfl, List.range_add]
    simp [hsample, Function.comp_def]
  case slots =>
    have hlong := sampleSteps_outRead (s := c) rfl rfl (a.toNat + j) hab.le
    have hshort := sampleSteps_outRead (s := c') rfl rfl j b.isLt.le
    rw [if_pos (by omega)] at hlong
    rw [if_pos hj, hsample] at hshort
    exact hshort.trans hlong.symm

/-! ## The mixer (R164, R175) -/

/-- TO_FIXED of finite values depends on the exact value alone (00_scope R12). -/
theorem toFixed_eq_of_units_eq {x y : F} (hx : isFinite x = true) (hy : isFinite y = true) (h : units x = units y) :
    toFixed x = toFixed y := by
  simp only [toFixed, isNaN_eq_false_of_isFinite hx, isNaN_eq_false_of_isFinite hy, isInf_eq_false_of_isFinite hx,
    isInf_eq_false_of_isFinite hy, Bool.false_eq_true, if_false, h]

theorem one_fmul {a : F} (ha : isFinite a = true) : fmul one a = a := by rw [fmul_comm_of_isFinite (by decide) ha, fmul_one ha]

/-- A zero share is a zero. -/
theorem units_zero_fmul {a : F} (ha : isFinite a = true) :
    isFinite (fmul 0x00000000 a) = true ∧ units (fmul 0x00000000 a) = 0 :=
  units_fmul_of_mul_eq_zero (by decide) ha (by rw [units_zero, zero_mul])

/-- Settles O52: one share is the sample itself and the other a zero, which changes at most the sign of a zero; TO_FIXED does not see
that. -/
theorem balanceExtremesPassOneOscillator : Obligations.BalanceExtremesPassOneOscillator := by
  intro s1 s2 h1 h2
  obtain ⟨hz1, hz10⟩ := units_zero_fmul h1
  obtain ⟨hz2, hz20⟩ := units_zero_fmul h2
  constructor
  · have hmix : mix 0x00000000 s1 s2 = fadd s1 (fmul 0x00000000 s2) := by
      rw [mix, show fsub one 0x00000000 = one by decide, one_fmul h1]
    obtain ⟨hf, hu⟩ := units_fadd h1 hz2 h1 (by rw [hz20, add_zero])
    rw [hmix]
    exact toFixed_eq_of_units_eq hf h1 hu
  · have hmix : mix 0x3F800000 s1 s2 = fadd (fmul 0x00000000 s1) s2 := by
      rw [mix, show fsub one 0x3F800000 = 0x00000000 by decide]
      exact congrArg _ (one_fmul h2)
    obtain ⟨hf, hu⟩ := units_fadd hz1 h2 h2 (by rw [hz10, zero_add])
    rw [hmix]
    exact toFixed_eq_of_units_eq hf h2 hu

/-- A share of a sample in [-1,1] does not exceed the gain, on either side. -/
theorem abs_units_fmul_le {g x : F} (hg : isFinite g = true) (hg0 : 0 ≤ units g) (hx : inSample x = true) :
    isFinite (fmul g x) = true ∧ |units (fmul g x)| ≤ units g := by
  rw [inSample, Bool.and_eq_true] at hx
  obtain ⟨hxf, hlo, hhi⟩ := units_between (by decide) (by decide) hx.1 hx.2
  rw [show units 0xBF800000 = -2 ^ 149 by decide] at hlo
  rw [units_one] at hhi
  have hng : isFinite (fneg g) = true := by rwa [isFinite_fneg]
  have h1 : fle (fneg g) (fmul g x) = true := fle_fmul_left hg hxf hng (by
    rw [units_fneg, neg_mul, ← mul_neg]
    exact mul_le_mul_of_nonneg_left hlo hg0)
  have h2 : fle (fmul g x) g = true := fle_fmul_right hg hxf hg (mul_le_mul_of_nonneg_left hhi hg0)
  obtain ⟨hf, hlo', hhi'⟩ := units_between hng hg h1 h2
  exact ⟨hf, abs_le.mpr ⟨by rwa [units_fneg] at hlo', hhi'⟩⟩

/-- The rounded gain `1 - BAL` exceeds the exact one by less than 2^-24, for the multiples of 2^-24 up to 1 are values of `F`. -/
theorem units_one_fsub_range {b : F} (hb : isFinite b = true) (h0 : 0 ≤ units b) (h1 : units b ≤ 2 ^ 149) :
    isFinite (fsub one b) = true ∧ 0 ≤ units (fsub one b) ∧ units (fsub one b) + units b < 2 ^ 149 + 2 ^ 125 := by
  have hone : units one = 2 ^ 149 := units_one
  obtain ⟨y, hy, hlo, hhi⟩ : ∃ y : F, isFinite y = true ∧ 2 ^ 149 - units b ≤ units y ∧
      units y + units b < 2 ^ 149 + 2 ^ 125 := by
    rcases lt_or_ge (units b) (2 ^ 125) with hsmall | hlarge
    · exact ⟨one, by decide, by omega, by omega⟩
    · obtain ⟨y, hy, hu⟩ := exists_finite_units (2 ^ 24 - (units b).toNat / 2 ^ 125) 125 (by omega) (by norm_num)
      exact ⟨y, hy, by omega, by omega⟩
  obtain ⟨hf, h0', hle⟩ := units_between (a := 0x00000000) (x := fsub one b) (by decide) hy
    (fle_fsub_left (by decide) hb (by decide) (by rw [units_zero, hone]; omega))
    (fle_fsub_right (by decide) hb hy (by rw [hone]; exact hlo))
  exact ⟨hf, units_zero ▸ h0', by omega⟩

/-- Less than half a last place above 1, which is 2^-24, rounds to at most 1: 1 is nearer than the next value. -/
theorem roundBits_le_one {n : Nat} (h : n < 2 ^ 149 + 2 ^ 125) : roundBits n 1 ≤ 0x3F800000 := by
  have hnear := roundRaw_nearest n 1 0x3F800000 one_pos
  rw [roundBits_eq]
  by_contra hgt
  have hnext : unitsOfBits 0x3F800001 ≤ unitsOfBits (roundRaw n 1) := unitsOfBits_le_iff.mpr (by omega)
  rw [show unitsOfBits 0x3F800001 = 2 ^ 149 + 2 ^ 126 by decide] at hnext
  rw [show unitsOfBits 0x3F800000 = 2 ^ 149 by decide] at hnear
  simp only [Int.abs_eq_natAbs] at hnear
  omega

theorem inSample_packF (neg : Bool) {b : Nat} (hb : b ≤ 0x3F800000) : inSample (packF neg b) = true := by
  have hone : orderKey 0x3F800000 = 0x3F800000 := by decide
  have hneg : orderKey 0xBF800000 = -0x3F800000 := by decide
  have hnan1 : isNaN 0x3F800000 = false := by decide
  have hnan2 : isNaN 0xBF800000 = false := by decide
  simp only [inSample, fle, isNaN_packF neg (show b ≤ 0x7F800000 by omega), hnan1, hnan2, hone, hneg,
    orderKey_packF neg (show b < 2 ^ 31 by omega), Bool.not_false, Bool.true_and, Bool.and_eq_true, decide_eq_true_eq]
  split <;> omega

theorem inSample_fadd {a b : F} (ha : isFinite a = true) (hb : isFinite b = true)
    (h : |units a + units b| < 2 ^ 149 + 2 ^ 125) : inSample (fadd a b) = true := by
  rw [fadd, sumWith_finite ha hb]
  split
  · exact inSample_packF _ (Nat.zero_le _)
  · exact inSample_packF _ (roundBits_le_one (by rw [Int.abs_eq_natAbs] at h; omega))

/-- Settles O53: each share is bounded by its gain, and the two gains, one of them rounded, add up to so little more than 1 that the
last sum rounds to at most 1. -/
theorem mixStaysInSampleRange : Obligations.MixStaysInSampleRange := by
  intro bal s1 s2 h0 h1 hs1 hs2
  obtain ⟨hb, hb0, hb1⟩ := units_between (by decide) (by decide) h0 h1
  rw [units_zero] at hb0
  rw [units_one] at hb1
  obtain ⟨hg, hg0, hsum⟩ := units_one_fsub_range hb hb0 hb1
  obtain ⟨hf1, hle1⟩ := abs_units_fmul_le hg hg0 hs1
  obtain ⟨hf2, hle2⟩ := abs_units_fmul_le hb hb0 hs2
  exact inSample_fadd hf1 hf2 (lt_of_le_of_lt (abs_add_le _ _) (by omega))

end Sys2Proof.Machine
end

section
/-! PROOFS. The lifecycle family: what INIT writes (44_lifecycle R191 to R194), and the commands without an action (R196 to R198). -/

namespace Sys2Proof.Machine

/-! ## INIT -/

/-- INIT makes its two draws as it writes the Voice State; its operands do not occur in what it leaves (R194). -/
theorem exec_init (platformId apiVersion : Word) (s : State) : exec (.init platformId apiVersion) s =
    .next (usePhaseDraws 2 { s with voice := initVoice (s.phaseDraw 0) (s.phaseDraw 1) }) := rfl

theorem initVoice_eq (p q : F) : initVoice p q =
    { wf1 := 1, wf2 := 1, sync := 0, ph1 := p, ph2 := q, bal := 0x3F000000, det := 0x3F000000 } := rfl

theorem inUnit_phaseDraw (s : State) (k : Nat) : inUnit (s.phaseDraw k) = true := inUnit_randPhase _ _

/-- Settles O15: the effect of INIT with the default voice written out, and the contract of the draws, supplied or free. -/
theorem initWritesDefaultsAndDraws : Obligations.InitWritesDefaultsAndDraws := by
  refine ⟨fun s platformId apiVersion => ?effect, inUnit_phaseDraw⟩
  rw [exec_init, initVoice_eq, usePhaseDraws]

/-! ## Commands without an action -/

/-- Settles O16: the meaning of both note events is `noEffect`. -/
theorem noteEventsDoNothing : Obligations.NoteEventsDoNothing := fun _ _ _ _ => ⟨rfl, rfl⟩

/-- Settles O17: the meaning of each reserved row is `noEffect`, also for an opcode outside the row's range. -/
theorem reservedOpcodesDoNothing : Obligations.ReservedOpcodesDoNothing := fun _ _ =>
  ⟨rfl, rfl, rfl, rfl, rfl, rfl, rfl⟩

end Sys2Proof.Machine
end

section
/-! PROOFS. The exceptions family: an idle clock (60_exceptions R222), and that nothing faults or is refused (R210, R236). -/

namespace Sys2Proof.Machine

/-- Settles O8: without a delivery the step is `idle`, which holds the state. -/
theorem idleEngineHoldsState : Obligations.IdleEngineHoldsState := by
  intro s hnone
  simp only [step, hnone, idle]

/-- The meaning of every command is a next state, whatever the operands and the state (R210, R211); CYCLE also where R223 would let
a model refuse (log entries 1, 6 to 9). -/
theorem exec_completes (i : Instr) (s : State) : ∃ t, exec i s = .next t := by
  cases i <;> exact ⟨_, rfl⟩

/-- Only a delivered command could fail to answer a next state: the idle clock and the resets answer one outright
(R222, R230, R231). -/
theorem step_completes (s : State) : ∃ t, step s = .next t := by
  unfold step
  split
  case h_2 word _ _ => exact exec_completes (accept word) (takeInput s)
  all_goals exact ⟨_, rfl⟩

/-- Settles O9: a step runs at most one command, and every command completes. -/
theorem everyStepCompletes : Obligations.EveryStepCompletes :=
  ⟨exec_completes, step_completes⟩

end Sys2Proof.Machine
end

section
/-! PROOFS. The reset family: the reset input with no command in progress (70_reset R230, 60_exceptions R213), and during one (R231). -/

namespace Sys2Proof.Machine

/-! ## What a reset during a command leaves -/

/-- A CYCLE that makes only the writes a reset lets it make (log entry 11): its sample steps, run to retirement. -/
theorem exec_cycle_min (note mod : Byte) (lfo : F) (k : Nat) (frames : Word) (s : State) :
    exec (.cycle note mod lfo (BitVec.ofNat 32 (min k frames.toNat))) s =
      .next (retire (cycleUpTo note mod lfo (min k frames.toNat) s)) := by
  have hlt : min k frames.toNat < 2 ^ 32 := (Nat.min_le_right _ _).trans_lt frames.isLt
  have hframes : (BitVec.ofNat 32 (min k frames.toNat)).toNat = min k frames.toNat := by
    rw [BitVec.toNat_ofNat, Nat.mod_eq_of_lt hlt]
  rw [exec, execCycle, hframes]

/-- Each sample step makes one transfer (20_memory R57). -/
theorem cycleUpTo_outPort_length (note mod : Byte) (lfo : F) (k : Nat) (s : State) :
    (cycleUpTo note mod lfo k s).outPort.length = s.outPort.length + k := by
  have hl : (cycleStart note mod lfo s).latches = some (resolve note mod lfo s.voice.det) := rfl
  rw [cycleUpTo, sampleSteps_outPort hl rfl, List.length_append, List.length_map, List.length_range]
  rfl

theorem abandon_cycle (note mod : Byte) (lfo : F) (frames : Word) (k : Nat) (s : State) :
    abandon (.cycle note mod lfo frames) k s = cycleUpTo note mod lfo (min k frames.toNat) s := rfl

/-- No other command has made a write before the reset (20_memory R51). -/
theorem abandon_of_ne_cycle {i : Instr} (h : ∀ note mod lfo frames, i ≠ .cycle note mod lfo frames) (k : Nat) (s : State) :
    abandon i k s = s := by
  unfold abandon
  split
  case h_1 note mod lfo frames => exact absurd rfl (h note mod lfo frames)
  case h_2 => rfl

/-- A command in progress takes no further delivery. -/
theorem abandon_inputs (i : Instr) (k : Nat) (s : State) : (abandon i k s).inputs = s.inputs := by
  unfold abandon
  split
  case h_1 note mod lfo frames => exact (sampleSteps_frame _ (cycleStart note mod lfo s)).2.1
  case h_2 => rfl

theorem step_resetDuring (s : State) (w : CmdWord) (k : Nat) (rest : List HostInput) :
    step { s with inputs := .resetDuring w k :: rest } =
      .next (hardwareReset (abandon (decode w) k { s with inputs := rest })) := rfl

/-- Settles O14: a reset keeps what the abandoned command has written, of a CYCLE the samples of its first `min k frames` sample steps. -/
theorem resetDuringCycleKeepsWrittenSlots : Obligations.ResetDuringCycleKeepsWrittenSlots := by
  intro s w k rest
  refine ⟨_, step_resetDuring s w k rest, rfl, ?inputs, fun note mod lfo frames hw => ?cycle, fun hw => ?other⟩
  case inputs => rw [hardwareReset_inputs, abandon_inputs]
  case cycle =>
    rw [hw, abandon_cycle]
    exact ⟨⟨_, exec_cycle_min note mod lfo k frames _, rfl, rfl⟩, cycleUpTo_outPort_length note mod lfo _ _⟩
  case other =>
    rw [abandon_of_ne_cycle hw]
    exact ⟨rfl, rfl⟩

/-! ## A reset with no command in progress -/

theorem step_reset (s : State) (rest : List HostInput) :
    step { s with inputs := .reset :: rest } = .next (hardwareReset { s with inputs := rest }) := rfl

/-- The word offered in the clock of a reset does not occur in what the step leaves (R213). -/
theorem step_resetOffered (s : State) (w : CmdWord) (rest : List HostInput) :
    step { s with inputs := .resetOffered w :: rest } = .next (hardwareReset { s with inputs := rest }) := rfl

/-- Settles O13: both forms of the delivery are the one hardware reset, which touches the Voice State and the latches alone. -/
theorem resetInputIdlesEngine : Obligations.ResetInputIdlesEngine := fun s w rest =>
  ⟨hardwareReset { s with inputs := rest }, step_reset s rest, step_resetOffered s w rest, rfl, rfl, rfl, rfl, rfl, rfl⟩

end Sys2Proof.Machine
end
